-- ==== Sys2Proof/Word.lean ====
section
/-! DEFINITION. The widths the spec gives its values: source bytes, 32-bit registers, 64-bit register pairs. -/

namespace Sys2Proof

/-- One byte of the byte source, and every 8-bit field (R80, R110). -/
abbrev Byte := BitVec 8

/-- A register of the register space, and a command word (R32, R110). -/
abbrev Word := BitVec 32

/-- A 64-bit value held as a `_HI`, `_LO` pair of registers, and a byte-source offset (R80, R90). -/
abbrev DWord := BitVec 64

end Sys2Proof
end

