-- ==== Sys2Proof/Config.lean ====
section
/-! DEFINITION. What the platform fixes (the OPEN parameters of R7) and what the spec leaves free (the draws of R84 and R265). -/

namespace Sys2Proof

/-- The OPEN parameters of R7 that one attached block keeps for its life.
`SRC_LEN` is OPEN too, but may change between commands (R84), so it stands in `Machine.Source`.
The command latency is the schedule in `Machine.HostSide.agenda`. -/
structure Config where
  /-- `STREAM_SLOTS`: 1 to 32, default 8 (R7, D17). -/
  streamSlots : Nat
  /-- `MMIO_BASE`: the bus address of register-space offset 0, 4 KiB aligned (R7, D39). -/
  mmioBase : Nat
deriving DecidableEq, Repr

/-- The place in a command's pseudocode where a byte-source read stands.
It only tells apart the draws of two reads of one offset (R84: each byte read is a draw of its own). -/
inductive ReadSite where
  | capture   -- `MemRead(c, 4)` of R151
  | header    -- `MemRead(c, 27)` of R151
  | segTable  -- `MemRead(c + 27, N)` of R151
  | payload (c : Nat)  -- `MemRead(c + 27 + N, P)` of R151, of candidate `c`: two candidates' payloads may start alike
  | scan      -- `MemRead(o, 4)` of R167
  | crcRun    -- `MemRead(a, n)` of R137
deriving DecidableEq, Repr

/-- The value a host read returns where R265 makes it a draw: "any 32-bit value, independent between reads".
The argument is the draw counter, so no two reads share a draw (log entry 2). -/
opaque Config.freeWord : Nat → Word

/-- A byte the engine reads from a source that changed while `BUSY = 1` (R84: "a draw (any value)").
The arguments are the change's draw number, the read's place, the read's first offset and the byte's offset (log entry 3). -/
opaque Config.freeByte : Nat → ReadSite → Nat → Nat → Byte

/-- What chooses the length the engine sees after such a change; `Machine.Source.engineLen` keeps it
"between the old and new lengths" (R84, log entry 3). -/
opaque Config.freeNat : Nat → Nat

end Sys2Proof
end

