-- ==== Sys2Proof/Syntax.lean ====
section
/-! DEFINITION. The commands of the OPV command set, version 1: one constructor per row of the opcode map (R113). -/

namespace Sys2Proof

/-- A legal command. Every operand but `CRC_BYTE`'s immediate comes from a register (R111, R112). -/
inductive Instr where
  /-- `NOP` (R200). -/
  | nop
  /-- `CRC_CLEAR` (R135). -/
  | crcClear
  /-- `CRC_BYTE b` (R136); the data byte is `IMM8` (R111). -/
  | crcByte (b : Byte)
  /-- `CRC_RUN` (R137). -/
  | crcRun
  /-- `PAGE_CHECK` (R165). -/
  | pageCheck
  /-- `PAGE_NEXT` (R166). -/
  | pageNext
  /-- `WASTE_CLEAR` (R201). -/
  | wasteClear
  /-- `STREAMS_CLEAR` (R202). -/
  | streamsClear
  /-- `SOFT_RESET` (R203). -/
  | softReset
deriving DecidableEq, Repr

end Sys2Proof
end

