-- ==== Sys2Proof/WellFormed.lean ====
section
/-! DEFINITION. The checks a configuration (R7) and the fields of a command word (R110, R114) must pass. -/

namespace Sys2Proof

/-- R7: `STREAM_SLOTS` is 1 to 32 and `MMIO_BASE` is 4 KiB aligned. -/
def Config.legal (c : Config) : Bool :=
  decide (1 ≤ c.streamSlots) && decide (c.streamSlots ≤ 32) && decide (c.mmioBase % 4096 = 0)

/-- The format `CMDW` of R110, most significant field first. -/
structure CmdFields where
  rsvd : BitVec 16
  imm8 : Byte
  op   : Byte
deriving DecidableEq, Repr

/-- The OP values of R113, in the order of its table. -/
def CmdFields.ops : List Byte := [0x00, 0x01, 0x02, 0x03, 0x10, 0x11, 0x20, 0x21, 0xFF]

/-- R114: the OP is one of R113's. -/
def CmdFields.opKnown (f : CmdFields) : Bool := CmdFields.ops.contains f.op

/-- R114: the IMM8 field is 0 unless the OP is 0x02. -/
def CmdFields.immAllowed (f : CmdFields) : Bool := f.imm8 == 0 || f.op == 0x02

/-- R114: the RSVD field is 0. -/
def CmdFields.rsvdClear (f : CmdFields) : Bool := f.rsvd == 0

/-- R114, read positively: the fields of a legal command word.
An `Instr` needs no check of its own: its one operand is a byte by its type, and its word's fields are legal. -/
def CmdFields.legal (f : CmdFields) : Bool := f.opKnown && f.immAllowed && f.rsvdClear

end Sys2Proof
end

