-- ==== Sys2Proof/Decode.lean ====
section
/-! DEFINITION. Command words to commands (R110 to R116), and back. -/

namespace Sys2Proof

/-- Why a word is illegal (R114). -/
inductive Illegal where
  /-- the OP is not in R113 (R115's reserved values) -/
  | reservedOp
  /-- the IMM8 field is not 0 and the OP is not 0x02 -/
  | immNotZero
  /-- the RSVD field is not 0 -/
  | rsvdNotZero
deriving DecidableEq, Repr

/-- R110: RSVD is `[31:16]`, IMM8 is `[15:8]`, OP is `[7:0]`. -/
def fieldsOf (w : Word) : CmdFields where
  rsvd := w.extractLsb' 16 16
  imm8 := w.extractLsb' 8 8
  op   := w.extractLsb' 0 8

/-- One row of R113: the mask, the match value and the command its words stand for, from the word's IMM8. -/
structure Row where
  mask    : Word
  pattern : Word
  build   : Byte → Instr

/-- The opcode map of R113, in its order. -/
def opcodeMap : List Row :=
  [ ⟨0xFFFFFFFF, 0x00000000, fun _ => .nop⟩,
    ⟨0xFFFFFFFF, 0x00000001, fun _ => .crcClear⟩,
    ⟨0xFFFF00FF, 0x00000002, .crcByte⟩,
    ⟨0xFFFFFFFF, 0x00000003, fun _ => .crcRun⟩,
    ⟨0xFFFFFFFF, 0x00000010, fun _ => .pageCheck⟩,
    ⟨0xFFFFFFFF, 0x00000011, fun _ => .pageNext⟩,
    ⟨0xFFFFFFFF, 0x00000020, fun _ => .wasteClear⟩,
    ⟨0xFFFFFFFF, 0x00000021, fun _ => .streamsClear⟩,
    ⟨0xFFFFFFFF, 0x000000FF, fun _ => .softReset⟩ ]

/-- R113: "A word `w` selects the row for which `(w AND mask) = match`." -/
def Row.selects (r : Row) (w : Word) : Bool := (w &&& r.mask) == r.pattern

/-- The name of an illegal word's first fault, in the order R114 lists them: OP, RSVD, IMM8. -/
def illegalReason (w : Word) : Illegal :=
  if !(fieldsOf w).opKnown then .reservedOp
  else if !(fieldsOf w).rsvdClear then .rsvdNotZero
  else .immNotZero

/-- R113, R114: total; a word is one row's command or illegal. -/
def decode (w : Word) : Except Illegal Instr :=
  match opcodeMap.find? (·.selects w) with
  | some r => .ok (r.build (fieldsOf w).imm8)
  | none   => .error (illegalReason w)

/-- The word of the fields of R110: `0000000000000000 IIIIIIII OOOOOOOO`, RSVD zero. -/
def cmdWord (imm8 op : Byte) : Word := op.setWidth 32 ||| (imm8.setWidth 32 <<< 8)

/-- The command's word, from the OP and IMM8 columns of R113. -/
def encode : Instr → Word
  | .nop          => cmdWord 0 0x00
  | .crcClear     => cmdWord 0 0x01
  | .crcByte b    => cmdWord b 0x02
  | .crcRun       => cmdWord 0 0x03
  | .pageCheck    => cmdWord 0 0x10
  | .pageNext     => cmdWord 0 0x11
  | .wasteClear   => cmdWord 0 0x20
  | .streamsClear => cmdWord 0 0x21
  | .softReset    => cmdWord 0 0xFF

/-- The 32-bit word of a table row's `nbits` bits; the bits above them are 0. -/
def tableWord (nbits w : Nat) : Word := BitVec.ofNat 32 (w % 2 ^ nbits)

/-- What the decoder reads from a row's bits; the one format is 32 bits wide (R110, R116). -/
def decodeTableWord (nbits w : Nat) : Option Instr :=
  match decode (tableWord nbits w) with
  | .ok i    => some i
  | .error _ => none

end Sys2Proof
end

