-- ==== Sys2Proof/Machine/State.lean ====
section
/-! DEFINITION. The state of the block and of what drives it (R6, R30): plain data, the ways a step can stop, and the state after reset. -/

namespace Sys2Proof.Machine

/-- The result codes of R221; their 8-bit values are `ResultCode.code`. -/
inductive ResultCode where
  | ok | eoi | truncated | corrupt | rejCapture | rejVersion | rejNseg | rejCrc | illegal
deriving DecidableEq, Repr

/-- Why a candidate is rejected (R16 "rejection", R153, R154, R155, R157). -/
inductive Rejection where
  | capture | version | nseg | crc
deriving DecidableEq, Repr

/-- `CTRL` (R35). Bits 31 to 4 are reserved, so four bits are all it holds. -/
structure Ctrl where
  irqDoneEn   : Bool
  irqErrEn    : Bool
  contEn      : Bool
  nseg0Accept : Bool
deriving DecidableEq, Repr

/-- `STATUS` (R36) but for `BUSY`, which `PENDING` decides (`State.busy`).
`dead` and `lostSync` are the internal bits of R59 and R58; `STATUS` shows them. -/
structure Status where
  done     : Bool
  err      : Bool
  overrun  : Bool
  dead     : Bool
  lostSync : Bool
  result   : ResultCode
deriving DecidableEq, Repr

/-- `REJ_INFO` (R43); `last = none` reads as `LAST_REJ = 0x00`. -/
structure RejInfo where
  count : BitVec 16
  last  : Option Rejection
deriving DecidableEq, Repr

/-- `CRC_STORED` and `CRC_COMPUTED` (R44), always written together (R158). -/
structure CrcPair where
  stored   : Word
  computed : Word
deriving DecidableEq, Repr

/-- One entry of the packet table (R55). -/
structure PktEntry where
  offset       : BitVec 16
  length       : BitVec 16
  contFragment : Bool
  complete     : Bool
deriving DecidableEq, Repr

/-- `PG_INFO` (R52), without its reserved bits. -/
structure PageInfo where
  pktCount    : BitVec 9
  lastCont    : Bool
  resync      : Bool
  seqGap      : Bool
  granRegress : Bool
  newStream   : Bool
  streamFull  : Bool
  contChecked : Bool
  slot        : BitVec 5
  slotValid   : Bool
deriving DecidableEq, Repr

/-- What describes the last accepted page (R45 to R52, R54, R55): the page registers, `SEG` and `PKT`. -/
structure PageRegs where
  off        : DWord
  len        : Word
  version    : Byte
  flags      : Byte
  nseg       : Byte
  gran       : DWord
  serial     : Word
  seq        : Word
  payloadLen : Word
  info       : PageInfo
  seg        : Vector Byte 256
  pkt        : Vector PktEntry 255
deriving DecidableEq, Repr

/-- One slot of the stream table (R56). -/
structure Slot where
  serial   : Word
  lastSeq  : Word
  lastGran : DWord
  valid    : Bool
  hasGran  : Bool
  eosSeen  : Bool
deriving DecidableEq, Repr

/-- Bytes by offset, in the canonical form `Memory.wf`. -/
abbrev Memory := List Host.Cell

/-- That the byte source changed while `BUSY = 1` (R84): the latest change's draw number, and the least and greatest of the
lengths the source had since the command was accepted. The model's own field (log entry 3). -/
structure Disturb where
  epoch : Nat
  lo    : Nat
  hi    : Nat
deriving DecidableEq, Repr

/-- The attached byte source (R80): `SRC_LEN` (R40), its bytes, and whether R84's duty was broken. -/
structure Source where
  len     : DWord
  mem     : Memory
  disturb : Option Disturb
deriving DecidableEq, Repr

/-- The width of a host access; only 32 bits is allowed (R86).
DESIGN CHOICE (log entry 10): R86 says only "another width"; that the others are 8, 16 and 64 bits is the model's list. -/
inductive Width where
  | w8 | w16 | w32 | w64
deriving DecidableEq, Repr

/-- One turn of the interleaving of R231: what the host, the engine, the byte source's feeder or the reset input does
next. Addresses are host-bus addresses; offset `off` of the block stands at `MMIO_BASE + off` (R85). -/
inductive Turn where
  /-- a host read (R12) -/
  | read (width : Width) (addr : Nat)
  /-- a host write of a value (R12); a width other than 32 bits faults, so the value is a word -/
  | write (width : Width) (addr : Nat) (v : Word)
  /-- `WAIT`: poll `STATUS` until `BUSY = 0` and `DONE = 1` (R118) -/
  | wait
  /-- the engine's turn: its one step if `BUSY = 1`, nothing if not (R227) -/
  | engine
  /-- the byte source is given this length and these bytes (R84) -/
  | attach (len : DWord) (cells : List Host.Cell)
  /-- the reset input (R260) -/
  | reset
deriving DecidableEq, Repr

/-- What drives the block: the turns still to come (none: the engine runs while it is busy, R227), the values the
host's reads have returned, newest first (R117, R271), and the draw counter. The model's own fields (log entries 1, 2). -/
structure HostSide where
  agenda : List Turn
  reads  : List Word
  draws  : Nat
deriving DecidableEq, Repr

/-- The machine (R30), with the byte source it reads and what drives it (R6). -/
@[ext]
structure State where
  cfg     : Config
  src     : Source
  host    : HostSide
  ctrl    : Ctrl
  status  : Status
  /-- `PENDING` (R57): the accepted command word, or none. -/
  pending : Option Word
  crc     : Word
  pos     : DWord
  argAddr : DWord
  argLen  : Word
  waste   : DWord
  rej     : RejInfo
  crcPair : CrcPair
  pg      : PageRegs
  /-- `SLOT` (R56); the entries from `STREAM_SLOTS` on do not exist and stay empty. -/
  slots   : Vector Slot 32
deriving DecidableEq, Repr

/-- Why a step has no successor. -/
inductive Fault where
  /-- `BusError(off)` (R86, R87, R225): raised by a host read or write that is not 32 bits wide, not at a multiple of
  4, or at an unmapped offset. Safe: the spec says the access has no value and changes nothing. -/
  | busError (off : BitVec 12)
deriving DecidableEq, Repr

/-- Why the model gives no meaning. -/
inductive Refusal where
  /-- Raised by `exec` for a command without a meaning; no arm raises it now. Safe: nothing is claimed of it. -/
  | notModelled (mnemonic : String)
  /-- Raised by a host access whose bus address lies outside the block's 4 KiB (R85): it acts on another device of the
  host bus, of which the spec says nothing. Safe: the block is not accessed. -/
  | otherDevice (addr : Nat)
deriving DecidableEq, Repr

/-- `BUSY` (R57): "`BUSY = 0` exactly when `PENDING` is none" (R61), so it is read off `PENDING`. -/
def State.busy (s : State) : Bool := s.pending.isSome

/-! Reset values (R260) -/

def Ctrl.reset : Ctrl := ⟨false, false, true, false⟩
def Status.reset : Status := ⟨false, false, false, false, false, .ok⟩
def RejInfo.reset : RejInfo := ⟨0, none⟩
def CrcPair.reset : CrcPair := ⟨0, 0⟩
def PktEntry.zero : PktEntry := ⟨0, 0, false, false⟩
def PageInfo.reset : PageInfo := ⟨0, false, false, false, false, false, false, false, 0, false⟩
def Slot.zero : Slot := ⟨0, 0, 0, false, false, false⟩
def PageRegs.reset : PageRegs where
  off := 0
  len := 0
  version := 0
  flags := 0
  nseg := 0
  gran := 0
  serial := 0
  seq := 0
  payloadLen := 0
  info := PageInfo.reset
  seg := Vector.replicate 256 0
  pkt := Vector.replicate 255 PktEntry.zero

/-- An empty byte source: no byte is attached yet (log entry 4). -/
def Source.empty : Source := ⟨0, [], none⟩

/-- The machine right after reset (R260), with `STREAM_SLOTS` at its default 8 (R7), `MMIO_BASE` 0 (log entry 5), an
empty source attached (log entry 4) and a host that has done nothing. -/
def State.reset : State where
  cfg := ⟨8, 0⟩
  src := Source.empty
  host := ⟨[], [], 0⟩
  ctrl := Ctrl.reset
  status := Status.reset
  pending := none
  crc := 0
  pos := 0
  argAddr := 0
  argLen := 0
  waste := 0
  rej := RejInfo.reset
  crcPair := CrcPair.reset
  pg := PageRegs.reset
  slots := Vector.replicate 32 Slot.zero

/-! One update per field -/

def State.setSrc (s : State) (v : Source) : State := { s with src := v }
def State.setHost (s : State) (v : HostSide) : State := { s with host := v }
def State.setCtrl (s : State) (v : Ctrl) : State := { s with ctrl := v }
def State.setStatus (s : State) (v : Status) : State := { s with status := v }
def State.setPending (s : State) (v : Option Word) : State := { s with pending := v }
def State.setCrc (s : State) (v : Word) : State := { s with crc := v }
def State.setPos (s : State) (v : DWord) : State := { s with pos := v }
def State.setArgAddr (s : State) (v : DWord) : State := { s with argAddr := v }
def State.setArgLen (s : State) (v : Word) : State := { s with argLen := v }
def State.setWaste (s : State) (v : DWord) : State := { s with waste := v }
def State.setRej (s : State) (v : RejInfo) : State := { s with rej := v }
def State.setCrcPair (s : State) (v : CrcPair) : State := { s with crcPair := v }
def State.setPg (s : State) (v : PageRegs) : State := { s with pg := v }
def State.setSlots (s : State) (v : Vector Slot 32) : State := { s with slots := v }

end Sys2Proof.Machine
end

