-- ==== Sys2Proof/Machine/Operands.lean ====
section
/-! DEFINITION. How bytes make numbers (R9, R89) and how each register's fields make its 32-bit value (R90). -/

namespace Sys2Proof.Machine

/-- `LE(b0, ..., bk)`: the little-endian number `sum b_i * 2^(8 i)` (R9). -/
def leNat : List Byte → Nat
  | []      => 0
  | b :: bs => b.toNat + 256 * leNat bs

/-- Byte `i` of a list read from the source, for the `h[i]` of R151. -/
def byteAt (h : List Byte) (i : Nat) : Byte := h.getD i 0

/-- The `n` bytes of `h` from index `i`: `h[i..i + n - 1]` (R151). -/
def slice (h : List Byte) (i n : Nat) : List Byte := (h.drop i).take n

/-! Halves of a 64-bit value (R90, D44): `_LO` holds bits [31:0], `_HI` bits [63:32] -/

def lo32 (v : DWord) : Word := v.setWidth 32
def hi32 (v : DWord) : Word := (v >>> 32).setWidth 32
/-- `{hi, lo}` (R9). -/
def join64 (hi lo : Word) : DWord := (hi.setWidth 64 <<< 32) ||| lo.setWidth 64
/-- A write to a `_LO` register "replaces bits [31:0]" (R38). -/
def withLo (v : DWord) (lo : Word) : DWord := join64 (hi32 v) lo
/-- A write to a `_HI` register "replaces bits [63:32]" (R38). -/
def withHi (v : DWord) (hi : Word) : DWord := join64 hi (lo32 v)

/-- A field of a register, its lowest bit at `lo`: one row of a register's table. Reserved bits have no row and read 0 (R31). -/
def field (lo : Nat) {n : Nat} (v : BitVec n) : Word := v.setWidth 32 <<< lo

/-- A one-bit field. -/
def flag (lo : Nat) (b : Bool) : Word := field lo (BitVec.ofBool b)

/-! `CTRL` (R35) -/

def Ctrl.toWord (c : Ctrl) : Word :=
  flag 0 c.irqDoneEn ||| flag 1 c.irqErrEn ||| flag 2 c.contEn ||| flag 3 c.nseg0Accept

/-- A write stores bits [3:0]; the reserved bits' written values are ignored (R35). -/
def Ctrl.ofWord (w : Word) : Ctrl where
  irqDoneEn   := w.getLsbD 0
  irqErrEn    := w.getLsbD 1
  contEn      := w.getLsbD 2
  nseg0Accept := w.getLsbD 3

/-- `VERSION` (R34): `CMDSET` 0x01 in [7:0], `STREAM_SLOTS` in [15:8]. -/
def versionWord (c : Config) : Word := field 0 0x01#8 ||| field 8 (BitVec.ofNat 8 c.streamSlots)

/-- `ID` (R33). -/
def idWord : Word := 0x4F676753

/-! `PG_HDR` and `PG_INFO` (R47, R52) -/

def PageRegs.hdrWord (p : PageRegs) : Word := field 0 p.version ||| field 8 p.flags ||| field 16 p.nseg

def PageInfo.toWord (i : PageInfo) : Word :=
  field 0 i.pktCount ||| flag 16 i.lastCont ||| flag 17 i.resync ||| flag 18 i.seqGap ||| flag 19 i.granRegress |||
  flag 20 i.newStream ||| flag 21 i.streamFull ||| flag 22 i.contChecked ||| field 24 i.slot ||| flag 29 i.slotValid

/-! Windows (R54 to R56) -/

/-- Entry `i` of the segment table. -/
def PageRegs.segByte (p : PageRegs) (i : Nat) : Byte := p.seg.toList.getD i 0

/-- Word `k` of the SEG window: `LE(SEG[4k], SEG[4k+1], SEG[4k+2], SEG[4k+3])` (R54). -/
def PageRegs.segWord (p : PageRegs) (k : Nat) : Word :=
  field 0 (p.segByte (4 * k)) ||| field 8 (p.segByte (4 * k + 1)) ||| field 16 (p.segByte (4 * k + 2)) |||
  field 24 (p.segByte (4 * k + 3))

/-- Entry `i` of the packet table; a 256th entry reads 0 (R55). -/
def PageRegs.pktEntry (p : PageRegs) (i : Nat) : PktEntry := p.pkt.toList.getD i PktEntry.zero

/-- Word 0 of a packet entry: `OFFSET` in [15:0] (R55). -/
def PktEntry.word0 (e : PktEntry) : Word := field 0 e.offset

/-- Word 1 of a packet entry: `COMPLETE` [31], `CONT_FRAGMENT` [30], `LENGTH` [15:0] (R55). -/
def PktEntry.word1 (e : PktEntry) : Word := field 0 e.length ||| flag 30 e.contFragment ||| flag 31 e.complete

/-- `SFLAGS` of a slot (R56). -/
def Slot.flagsWord (t : Slot) : Word := flag 0 t.valid ||| flag 1 t.hasGran ||| flag 2 t.eosSeen

/-- Word `k` of a slot's 32 bytes; an invalid slot reads 0 in every word (R56). -/
def Slot.word (t : Slot) (k : Nat) : Word :=
  if t.valid then
    match k with
    | 0 => t.serial
    | 1 => t.lastSeq
    | 2 => lo32 t.lastGran
    | 3 => hi32 t.lastGran
    | 4 => t.flagsWord
    | _ => 0
  else 0

/-- Slot `i`; the slots from `STREAM_SLOTS` on read as empty (R56). -/
def State.slotAt (s : State) (i : Nat) : Slot :=
  if i < s.cfg.streamSlots then s.slots.toList.getD i Slot.zero else Slot.zero

end Sys2Proof.Machine
end

