-- ==== Sys2Proof/Machine/Flags.lean ====
section
/-! DEFINITION. Result codes (R221), every rule that changes a STATUS bit (R36), and the interrupt line (R228). -/

namespace Sys2Proof.Machine

/-- The code column of R221. -/
def ResultCode.code : ResultCode → Byte
  | .ok         => 0x00
  | .eoi        => 0x01
  | .truncated  => 0x02
  | .corrupt    => 0x03
  | .rejCapture => 0x10
  | .rejVersion => 0x11
  | .rejNseg    => 0x12
  | .rejCrc     => 0x13
  | .illegal    => 0x20

/-- The "sets ERR" column of R221: every result but OK and EOI. -/
def ResultCode.isError : ResultCode → Bool
  | .ok         => false
  | .eoi        => false
  | .truncated  => true
  | .corrupt    => true
  | .rejCapture => true
  | .rejVersion => true
  | .rejNseg    => true
  | .rejCrc     => true
  | .illegal    => true

/-- The result code `REJ_x` of a rejection (R151, R221). -/
def Rejection.result : Rejection → ResultCode
  | .capture => .rejCapture
  | .version => .rejVersion
  | .nseg    => .rejNseg
  | .crc     => .rejCrc

/-- `STATUS` as the host reads it (R36), with `BUSY`. -/
def Status.toWord (t : Status) (busy : Bool) : Word :=
  flag 0 busy ||| flag 1 t.done ||| flag 2 t.err ||| flag 3 t.overrun ||| flag 4 t.dead ||| flag 5 t.lostSync |||
  field 8 t.result.code

/-- What `complete(code)` does to STATUS (R222); `ERR` is sticky (R60). -/
def Status.completed (code : ResultCode) (t : Status) : Status :=
  { t with result := code, err := t.err || code.isError, done := true }

/-- What acceptance of a command does to STATUS (R226). -/
def Status.accepted (t : Status) : Status := { t with done := false }

/-- What an overrun does to STATUS (R224). -/
def Status.overran (t : Status) : Status := { t with overrun := true, err := true }

/-- A host write to STATUS: each W1C bit written as 1 is cleared, nothing else changes (R36).
With `DONE` and `ERR` written it is the host's acknowledgement, the return from an error (R233). -/
def Status.w1c (v : Word) (t : Status) : Status :=
  { t with done := t.done && !v.getLsbD 1, err := t.err && !v.getLsbD 2, overrun := t.overrun && !v.getLsbD 3 }

/-- A host write to `POS_LO` or `POS_HI` clears `DEAD` (R59). -/
def Status.undead (t : Status) : Status := { t with dead := false }

/-- CORRUPT sets `DEAD` (R169). -/
def Status.deaden (t : Status) : Status := { t with dead := true }

/-- `LOST_SYNC` is set by a rejection and cleared by acceptance of a page (R58). -/
def Status.withLostSync (b : Bool) (t : Status) : Status := { t with lostSync := b }

/-- `REJ_INFO` after one more rejection (R164); the count saturates (R43). -/
def RejInfo.add (r : Rejection) (i : RejInfo) : RejInfo :=
  { count := if i.count = 0xFFFF then 0xFFFF else i.count + 1, last := some r }

/-- `LAST_REJ`: the last rejection's result code, 0x00 if none (R43). -/
def RejInfo.lastCode (i : RejInfo) : Byte :=
  match i.last with
  | none   => 0
  | some r => r.result.code

/-- `REJ_INFO` as the host reads it (R43). -/
def RejInfo.toWord (i : RejInfo) : Word := field 0 i.count ||| field 16 i.lastCode

/-- The interrupt output, level-sensitive and without a state of its own (R228). -/
def State.irq (s : State) : Bool :=
  (s.status.done && s.ctrl.irqDoneEn) || (s.status.err && s.ctrl.irqErrEn)

end Sys2Proof.Machine
end

