-- ==== Sys2Proof/Machine/Ops.lean ====
section
/-! DEFINITION. The operations the commands and the host's accesses share: the byte source (R11, R80 to R84), completion,
acceptance and reset (R222, R226, R260), and the draws (R265). -/

namespace Sys2Proof.Machine

/-! Bytes by offset -/

/-- What an offset no cell lists reads as. Only a shorthand for a source's zero bytes (log entry 4). -/
def Memory.unlisted : Byte := 0

/-- The byte at an offset. -/
def Memory.read : Memory → Nat → Byte
  | [],          _ => Memory.unlisted
  | (k, v) :: m, a => if k = a then v else Memory.read m a

/-- Put a cell in its place; a cell equal to what its offset reads as anyway is left out. -/
def Memory.cons (a : Nat) (b : Byte) (m : Memory) : Memory := if b = Memory.unlisted then m else (a, b) :: m

/-- The memory with one byte replaced, in canonical form. -/
def Memory.write : Memory → Nat → Byte → Memory
  | [],          a, b => Memory.cons a b []
  | (k, v) :: m, a, b =>
    if a < k then Memory.cons a b ((k, v) :: m)
    else if a = k then Memory.cons a b m
    else (k, v) :: Memory.write m a b

/-- The canonical form from offset `n` on: strictly rising offsets, no cell equal to what its offset reads as anyway. -/
def Memory.wfFrom : Nat → Memory → Bool
  | _, []          => true
  | n, (k, v) :: m => decide (n ≤ k) && decide (v ≠ Memory.unlisted) && Memory.wfFrom (k + 1) m

/-- The canonical form of a memory. -/
def Memory.wf (m : Memory) : Bool := Memory.wfFrom 0 m

/-- The memory that holds the given bytes below `n`, a later cell over an earlier one, and nothing else. -/
def Memory.ofCells (n : Nat) : List Host.Cell → Memory → Memory
  | [],          m => m
  | (a, b) :: l, m => Memory.ofCells n l (if a < n then Memory.write m a b else m)

/-! The byte source -/

/-- A source of `SRC_LEN` bytes: canonical memory, every listed offset below `SRC_LEN` (R80). -/
def Source.wf (r : Source) : Bool := r.mem.wf && r.mem.all (fun c => decide (c.1 < r.len.toNat))

/-- `SRC_LEN` as the engine sees it: the length, or after a change while busy a draw between the old and the new
lengths (R84). -/
def Source.engineLen (r : Source) : Nat :=
  match r.disturb with
  | none   => r.len.toNat
  | some d => d.lo + Config.freeNat d.epoch % (d.hi - d.lo + 1)

/-- `MemByte(a)` as the engine reads it: the byte, or after a change while busy a draw (R84).
DESIGN CHOICE (log entry 3): after such a change two reads of one offset do not share a draw, R84's "each byte the engine
reads" being taken over R83's "the same byte"; no two reads of one command have the same place and first offset. -/
def Source.byte (r : Source) (site : ReadSite) (start a : Nat) : Byte :=
  match r.disturb with
  | none   => r.mem.read a
  | some d => Config.freeByte d.epoch site start a

/-- `MemRead(addr, n)` (R11); every use is guarded by `avail` (R81). -/
def Source.bytes (r : Source) (site : ReadSite) (addr n : Nat) : List Byte :=
  (List.range n).map fun i => r.byte site addr (addr + i)

/-- `L`, the `SRC_LEN` of the command in execution. -/
def State.srcLen (s : State) : Nat := s.src.engineLen

/-- `Avail(a) = SRC_LEN - a` for `a <= SRC_LEN`, else 0 (R11). -/
def State.avail (s : State) (a : Nat) : Nat := s.srcLen - a

/-- `MemRead(addr, n)` of the command in execution. -/
def State.memRead (s : State) (site : ReadSite) (addr n : Nat) : List Byte := s.src.bytes site addr n

/-- The changed range of lengths after a change from `old` to `new` while busy (R84). -/
def Disturb.widen (epoch old new : Nat) : Option Disturb → Disturb
  | none   => ⟨epoch, min old new, max old new⟩
  | some d => ⟨epoch, min d.lo new, max d.hi new⟩

/-- What attaching a source of this length and these bytes makes of the source, `busy` or not (R84). -/
def Source.attach (busy : Bool) (epoch : Nat) (len : DWord) (cells : List Host.Cell) (r : Source) : Source :=
  let mem := Memory.ofCells len.toNat cells []
  if busy && !(len == r.len && mem == r.mem) then
    ⟨len, mem, some (Disturb.widen epoch r.len.toNat len.toNat r.disturb)⟩
  else
    ⟨len, mem, r.disturb⟩

/-- Between commands the source is what it is (R84: the duty runs "from the acceptance of a command to its completion"). -/
def Source.settle (r : Source) : Source := { r with disturb := none }

/-! Completion: the entry to an error result, and the only one (R232) -/

/-- `complete(code)` (R222). -/
def complete (code : ResultCode) (s : State) : State :=
  ((s.setStatus (s.status.completed code)).setPending none).setSrc s.src.settle

/-- The return from an error is the host's acknowledgement, `ACK` of R118 (R233). -/
def acknowledge (v : Word) (s : State) : State := s.setStatus (s.status.w1c v)

/-- Acceptance of a command word (R226). -/
def accept (w : Word) (s : State) : State := (s.setPending (some w)).setStatus s.status.accepted

/-- A host write that finds the block busy (R224). -/
def overrun (s : State) : State := s.setStatus s.status.overran

/-! Reset -/

/-- Every piece of state but `BUSY` and `PENDING` at its reset value (R260, R203). The byte source, the parameters and
what drives the block are no state of the block. -/
def blockReset (s : State) : State :=
  { State.reset with cfg := s.cfg, src := s.src, host := s.host, pending := s.pending }

/-- The reset input (R260): it abandons a command in flight. -/
def resetInput (s : State) : State := ((blockReset s).setPending none).setSrc s.src.settle

/-! The host's side -/

/-- The host's turns after the first. -/
def State.withAgenda (l : List Turn) (s : State) : State := s.setHost { s.host with agenda := l }

/-- A value a host read returned (R117: "the value is recorded"). -/
def record (v : Word) (s : State) : State := s.setHost { s.host with reads := v :: s.host.reads }

/-- One draw is used up. -/
def drawn (s : State) : State := s.setHost { s.host with draws := s.host.draws + 1 }

/-- The feeder's turn (R84): attach a source; a change while busy takes a draw number. -/
def attachSource (len : DWord) (cells : List Host.Cell) (s : State) : State :=
  drawn (s.setSrc (s.src.attach s.busy s.host.draws len cells))

end Sys2Proof.Machine
end

