-- ==== Sys2Proof/Machine/ControlFamily.lean ====
section
/-! DEFINITION. `NOP`, `WASTE_CLEAR`, `STREAMS_CLEAR`, `SOFT_RESET`, and the execution of an illegal word (R200 to R204). -/

namespace Sys2Proof.Machine

/-- `NOP` (R200). -/
def execNop (s : State) : Host.Outcome State Fault Refusal := .next (complete .ok s)

/-- `WASTE_CLEAR` (R201). -/
def execWasteClear (s : State) : Host.Outcome State Fault Refusal := .next (complete .ok (s.setWaste 0))

/-- `STREAMS_CLEAR` (R202). -/
def execStreamsClear (s : State) : Host.Outcome State Fault Refusal :=
  .next (complete .ok (s.setSlots (Vector.replicate 32 Slot.zero)))

/-- `SOFT_RESET` (R203). -/
def execSoftReset (s : State) : Host.Outcome State Fault Refusal := .next (complete .ok (blockReset s))

/-- An illegal command word is accepted and has no effect (R204). -/
def execIllegal (s : State) : Host.Outcome State Fault Refusal := .next (complete .illegal s)

end Sys2Proof.Machine
end

