-- ==== Sys2Proof/Machine/Crc.lean ====
section
/-! DEFINITION. The Ogg CRC-32 (R130 to R132). -/

namespace Sys2Proof.Machine

/-- `CRC_POLY` (R7, R130). -/
def crcPoly : Word := 0x04C11DB7

/-- `CRC_INIT` (R7, R130). -/
def crcInit : Word := 0

/-- One pass of the loop of R131: shift toward the most significant end, reducing when bit 31 falls out. -/
def crcShift (c : Word) : Word := if c.msb then (c <<< 1) ^^^ crcPoly else c <<< 1

/-- `n` passes of the loop of R131. -/
def crcShifts : Nat → Word → Word
  | 0,     c => c
  | n + 1, c => crcShifts n (crcShift c)

/-- `crc_update(c, b)`: the byte enters the top of the state, then eight passes (R131). -/
def crcUpdate (c : Word) (b : Byte) : Word := crcShifts 8 (c ^^^ (b.setWidth 32 <<< 24))

/-- `crc_bytes(c, bs)`: the bytes folded left to right (R132). -/
def crcBytes : Word → List Byte → Word
  | c, []      => c
  | c, b :: bs => crcBytes (crcUpdate c b) bs

end Sys2Proof.Machine
end

