-- ==== Sys2Proof/Machine/CrcFamily.lean ====
section
/-! DEFINITION. `CRC_CLEAR`, `CRC_BYTE`, `CRC_RUN` (R135 to R137). -/

namespace Sys2Proof.Machine

/-- `CRC_CLEAR` (R135). -/
def execCrcClear (s : State) : Host.Outcome State Fault Refusal := .next (complete .ok (s.setCrc 0))

/-- `CRC_BYTE b` (R136). -/
def execCrcByte (b : Byte) (s : State) : Host.Outcome State Fault Refusal :=
  .next (complete .ok (s.setCrc (crcUpdate s.crc b)))

/-- `CRC_RUN` (R137); `a + n` is computed without wrap. -/
def execCrcRun (s : State) : Host.Outcome State Fault Refusal :=
  let a := s.argAddr.toNat
  let n := s.argLen.toNat
  if s.srcLen < a + n then .next (complete .truncated s)
  else .next (complete .ok (s.setCrc (crcBytes s.crc (s.memRead .crcRun a n))))

end Sys2Proof.Machine
end

