-- ==== Sys2Proof/Machine/PageOps.lean ====
section
/-! DEFINITION. The functions the page commands share: checking one candidate, packet boundaries, continuity, accepting,
rejecting and scanning (R150 to R173). -/

namespace Sys2Proof.Machine

/-- The capture pattern "OggS" (R16, R153). -/
def capturePattern : List Byte := [0x4F, 0x67, 0x67, 0x53]

/-- `HDR_LEN` (R7). -/
def hdrLen : Nat := 27

/-- `RESYNC_WINDOW`, `W` (R7, R166). -/
def resyncWindow : Nat := 65536

/-- The page record `PageCheck` returns with OK (R151). -/
structure Page where
  off     : Nat
  len     : Nat
  version : Byte
  flags   : Byte
  gran    : DWord
  serial  : Word
  seq     : Word
  nseg    : Nat
  segs    : List Byte
  plen    : Nat
deriving DecidableEq, Repr

/-- What `PageCheck` returns (R151). -/
inductive Verdict where
  | ok (p : Page)
  | eoi
  | truncated
  | rejected (r : Rejection)
deriving DecidableEq, Repr

/-! Checking one candidate (R151) -/

/-- The sum of the segment bytes: the payload's length `P` (R150). -/
def segSum (segs : List Byte) : Nat := (segs.map BitVec.toNat).sum

/-- The bytes the page CRC covers: the header with its CRC field zeroed, the segment table, the payload (R157). -/
def crcCover (h segs payload : List Byte) : List Byte :=
  h.take 22 ++ [0, 0, 0, 0] ++ [byteAt h 26] ++ segs ++ payload

/-- The stored CRC field (R151). -/
def storedCrc (h : List Byte) : Word := BitVec.ofNat 32 (leNat (slice h 22 4))

/-- The page record of an accepted candidate (R151). -/
def pageOf (c : Nat) (h segs : List Byte) : Page where
  off     := c
  len     := hdrLen + (byteAt h 26).toNat + segSum segs
  version := byteAt h 4
  flags   := byteAt h 5
  gran    := BitVec.ofNat 64 (leNat (slice h 6 8))
  serial  := BitVec.ofNat 32 (leNat (slice h 14 4))
  seq     := BitVec.ofNat 32 (leNat (slice h 18 4))
  nseg    := (byteAt h 26).toNat
  segs    := segs
  plen    := segSum segs

/-- The last check: the CRC pair is written before the comparison decides (R158), and a difference rejects (R157). -/
def checkCrc (s : State) (c : Nat) (h segs payload : List Byte) : State × Verdict :=
  let pair : CrcPair := ⟨storedCrc h, crcBytes crcInit (crcCover h segs payload)⟩
  (s.setCrcPair pair, if pair.computed = pair.stored then .ok (pageOf c h segs) else .rejected .crc)

/-- The checks after the segment count: segment table, payload, CRC (R151, R156). -/
def checkTable (s : State) (c : Nat) (h : List Byte) : State × Verdict :=
  let n := (byteAt h 26).toNat
  if s.avail c < hdrLen + n then (s, .truncated)
  else
    let segs := s.memRead .segTable (c + hdrLen) n
    let p := segSum segs
    if s.avail c < hdrLen + n + p then (s, .truncated)
    else checkCrc s c h segs (s.memRead (.payload c) (c + hdrLen + n) p)

/-- The checks of the fixed header's version and segment count (R154, R155), then the rest. -/
def checkHeader (s : State) (c : Nat) (h : List Byte) : State × Verdict :=
  if byteAt h 4 ≠ 0 then (s, .rejected .version)
  else if byteAt h 26 = 0 ∧ s.ctrl.nseg0Accept = false then (s, .rejected .nseg)
  else checkTable s c h

/-- The candidate at `o` holds the capture pattern, its four bytes being present. -/
def captureAt (s : State) (site : ReadSite) (o : Nat) : Bool := s.memRead site o 4 == capturePattern

/-- `PageCheck(c)` (R151); the checks run in the order R152 lists. The state returned differs from the one given in the
CRC pair alone, and only when the CRC comparison is reached (R158). -/
def pageCheck (s : State) (c : Nat) : State × Verdict :=
  if s.srcLen ≤ c then (s, .eoi)
  else if s.avail c < 4 ∨ captureAt s .capture c = false then (s, .rejected .capture)
  else if s.avail c < hdrLen then (s, .truncated)
  else checkHeader s c (s.memRead .header c hdrLen)

/-! Packet boundaries (R160) -/

/-- A packet entry under construction: the values of R160 are unbounded. -/
structure Frag where
  offset       : Nat
  length       : Nat
  complete     : Bool
  contFragment : Bool
deriving DecidableEq, Repr

/-- The local values of `Lacing`: entries so far, and `start`, `off`, `acc` (R160). -/
structure LaceState where
  pk    : List Frag
  start : Nat
  off   : Nat
  acc   : Nat
deriving DecidableEq, Repr

/-- The body of `Lacing`'s loop over the segments (R160). -/
def laceStep (t : LaceState) (seg : Byte) : LaceState :=
  let acc := t.acc + seg.toNat
  let off := t.off + seg.toNat
  if seg.toNat < 255 then ⟨t.pk ++ [⟨t.start, acc, true, false⟩], off, off, 0⟩
  else ⟨t.pk, t.start, off, acc⟩

/-- "The final segment of a page with length 255" (R160). -/
def lastCont (segs : List Byte) : Bool := segs.getLast? == some 255

/-- The last lines of `Lacing`: entry 0 continues an earlier packet if the page's continuation flag is set (R160). -/
def markFirst (flags : Byte) : List Frag → List Frag
  | []      => []
  | e :: es => { e with contFragment := flags.getLsbD 0 } :: es

/-- `Lacing(segs, flags)` (R160): the packet entries and the last-packet-continues bit. -/
def lacing (segs : List Byte) (flags : Byte) : List Frag × Bool :=
  let t := segs.foldl laceStep ⟨[], 0, 0, 0⟩
  let pk := if lastCont segs then t.pk ++ [⟨t.start, t.acc, false, false⟩] else t.pk
  (markFirst flags pk, lastCont segs)

/-- A packet entry as `PKT` holds it (R161). -/
def Frag.entry (e : Frag) : PktEntry where
  offset       := BitVec.ofNat 16 e.offset
  length       := BitVec.ofNat 16 e.length
  contFragment := e.contFragment
  complete     := e.complete

/-- `PKT` after acceptance: the entries, every other entry 0 (R161). -/
def pktTable (pk : List Frag) : Vector PktEntry 255 := Vector.ofFn fun i => (pk.map Frag.entry).getD i PktEntry.zero

/-- `SEG` after acceptance: the segment bytes, 0 otherwise (R163). -/
def segTable (segs : List Byte) : Vector Byte 256 := Vector.ofFn fun i => segs.getD i 0

/-! Continuity (R170 to R173) -/

/-- The result of `Continuity` (R170). -/
structure Continuity where
  gap       : Bool
  regress   : Bool
  new       : Bool
  full      : Bool
  checked   : Bool
  slot      : Nat
  slotValid : Bool
deriving DecidableEq, Repr

/-- The granule −1 (R171, R177). -/
def granNone : DWord := 0xFFFFFFFFFFFFFFFF

/-- "the valid slot whose `SERIAL = page.serial`" (R170); at most one holds a serial (R56). -/
def trackedSlot (n : Nat) (slots : Vector Slot 32) (serial : Word) : Option (Fin 32) :=
  (List.finRange 32).find? fun i => decide (i.val < n) && slots[i].valid && slots[i].serial == serial

/-- "the lowest-numbered invalid slot" (R172). -/
def freeSlot (n : Nat) (slots : Vector Slot 32) : Option (Fin 32) :=
  (List.finRange 32).find? fun i => decide (i.val < n) && !slots[i].valid

/-- The header flag EOS, bit 2 (R16). -/
def Page.eos (p : Page) : Bool := p.flags.getLsbD 2

/-- The granule position is not −1 (R171). -/
def Page.granKnown (p : Page) : Bool := p.gran != granNone

/-- A tracked serial's slot after the page (R171). -/
def Slot.follow (t : Slot) (p : Page) : Slot :=
  { t with
    lastSeq  := p.seq
    lastGran := if p.granKnown then p.gran else t.lastGran
    hasGran  := t.hasGran || p.granKnown
    eosSeen  := t.eosSeen || p.eos }

/-- "the sequence number is not the tracked one plus 1", modulo 2^32 (R171). -/
def Slot.gapAt (t : Slot) (p : Page) : Bool := p.seq != t.lastSeq + 1

/-- The granule is below the tracked one, as signed numbers; −1 is exempt (R171). -/
def Slot.regressAt (t : Slot) (p : Page) : Bool := p.granKnown && t.hasGran && p.gran.slt t.lastGran

/-- A newly allocated slot (R172). -/
def Slot.start (p : Page) : Slot where
  serial   := p.serial
  lastSeq  := p.seq
  lastGran := if p.granKnown then p.gran else 0
  valid    := true
  hasGran  := p.granKnown
  eosSeen  := p.eos

/-- The continuity checks on a page, the checks being enabled (R170 to R173). -/
def track (n : Nat) (slots : Vector Slot 32) (p : Page) : Vector Slot 32 × Continuity :=
  match trackedSlot n slots p.serial with
  | some i =>
    (slots.set i (slots[i].follow p), ⟨slots[i].gapAt p, slots[i].regressAt p, false, false, true, i, true⟩)
  | none =>
    match freeSlot n slots with
    | some j => (slots.set j (Slot.start p), ⟨false, false, true, false, true, j, true⟩)
    | none   => (slots, ⟨false, false, false, true, true, 0, false⟩)

/-- `Continuity(page)` (R170): with `CONT_EN = 0` every field is 0 and the table is untouched. -/
def continuity (s : State) (p : Page) : Vector Slot 32 × Continuity :=
  if s.ctrl.contEn then track s.cfg.streamSlots s.slots p
  else (s.slots, ⟨false, false, false, false, false, 0, false⟩)

/-! Accepting and rejecting (R163, R164) -/

/-- `PG_INFO` of an accepted page (R163). -/
def pageInfo (pk : List Frag) (last lostSync : Bool) (k : Continuity) : PageInfo where
  pktCount    := BitVec.ofNat 9 pk.length
  lastCont    := last
  resync      := lostSync
  seqGap      := k.gap
  granRegress := k.regress
  newStream   := k.new
  streamFull  := k.full
  contChecked := k.checked
  slot        := BitVec.ofNat 5 k.slot
  slotValid   := k.slotValid

/-- The page registers and tables of an accepted page (R163). -/
def pageRegs (p : Page) (lostSync : Bool) (k : Continuity) : PageRegs where
  off        := BitVec.ofNat 64 p.off
  len        := BitVec.ofNat 32 p.len
  version    := p.version
  flags      := p.flags
  nseg       := BitVec.ofNat 8 p.nseg
  gran       := p.gran
  serial     := p.serial
  seq        := p.seq
  payloadLen := BitVec.ofNat 32 p.plen
  info       := pageInfo (lacing p.segs p.flags).1 (lacing p.segs p.flags).2 lostSync k
  seg        := segTable p.segs
  pkt        := pktTable (lacing p.segs p.flags).1

/-- `Accept(page)` (R163). -/
def acceptPage (p : Page) (s : State) : State :=
  ((s.setPg (pageRegs p s.status.lostSync (continuity s p).2)).setSlots (continuity s p).1).setStatus
    (s.status.withLostSync false)

/-- `Reject(code)` (R164). -/
def rejectCandidate (r : Rejection) (s : State) : State :=
  (s.setStatus (s.status.withLostSync true)).setRej (s.rej.add r)

/-- `pos <- target` (R14). -/
def seekTo (target : Nat) (s : State) : State := s.setPos (BitVec.ofNat 64 target)

/-- What both page commands do with an accepted page (R165, R166). -/
def finishPage (p : Page) (s : State) : State := complete .ok (seekTo (p.off + p.len) (acceptPage p s))

/-! Scanning (R167, R168) -/

/-- What `Scan` returns (R167). -/
inductive ScanResult where
  | found (o : Nat)
  | endOfInput
  | windowEmpty
deriving DecidableEq, Repr

/-- The first of `k` offsets from `o` on that holds the capture pattern. -/
def findCapture (s : State) : Nat → Nat → Option Nat
  | _, 0     => none
  | o, k + 1 => if captureAt s .scan o then some o else findCapture s (o + 1) k

/-- How many offsets `o` there are with `c + 1 <= o <= c + W` and `o + 4 <= L` (R167). -/
def scanCount (s : State) (c : Nat) : Nat := min (c + resyncWindow) (s.srcLen - 4) - c

/-- `Scan(c)` (R167). -/
def scan (s : State) (c : Nat) : ScanResult :=
  match findCapture s (c + 1) (scanCount s c) with
  | some o => .found o
  | none   => if s.srcLen < c + 1 + resyncWindow + 3 then .endOfInput else .windowEmpty

/-- `reg[WASTE] <- (reg[WASTE] + 8 * bytes) mod 2^64` (R168). -/
def addWaste (bytes : Nat) (s : State) : State := s.setWaste (s.waste + BitVec.ofNat 64 (8 * bytes))

/-- CORRUPT: the window is empty (R166, R169). -/
def giveUp (c : Nat) (s : State) : State :=
  let t := seekTo (c + 1 + resyncWindow) (addWaste (resyncWindow + 1) s)
  complete .corrupt (t.setStatus t.status.deaden)

/-- The loop of `PAGE_NEXT` at candidate `c` (R166). Every found candidate lies past `c` and below `L` (R178), so
`L - c` passes are enough, and with none left `c >= L`, where `PageCheck` answers EOI. -/
def nextLoop : Nat → State → Nat → State
  | 0,        s, _ => complete .eoi s
  | fuel + 1, s, c =>
    match pageCheck s c with
    | (t, .ok p)       => finishPage p t
    | (t, .eoi)        => complete .eoi t
    | (t, .truncated)  => complete .truncated (seekTo c t)
    | (t, .rejected r) =>
      let u := rejectCandidate r t
      match scan u c with
      | .found o     => nextLoop fuel (addWaste (o - c) u) o
      | .endOfInput  => complete .eoi (seekTo u.srcLen (addWaste (u.srcLen - c) u))
      | .windowEmpty => giveUp c u

end Sys2Proof.Machine
end

