-- ==== Sys2Proof/Machine/PageFamily.lean ====
section
/-! DEFINITION. `PAGE_CHECK` and `PAGE_NEXT` (R165, R166). -/

namespace Sys2Proof.Machine

/-- `PAGE_CHECK` past its `DEAD` test, `REJ_INFO` zeroed (R165). -/
def checkAt (s : State) (c : Nat) : State :=
  match pageCheck s c with
  | (t, .ok p)       => finishPage p t
  | (t, .eoi)        => complete .eoi t
  | (t, .truncated)  => complete .truncated t
  | (t, .rejected r) => complete r.result (rejectCandidate r t)

/-- `PAGE_CHECK` (R165). -/
def execPageCheck (s : State) : Host.Outcome State Fault Refusal :=
  if s.status.dead then .next (complete .eoi s)
  else .next (checkAt (s.setRej RejInfo.reset) s.pos.toNat)

/-- `PAGE_NEXT` past its `DEAD` test, `REJ_INFO` zeroed (R166). -/
def nextFrom (s : State) (c : Nat) : State := nextLoop (s.srcLen - c) s c

/-- `PAGE_NEXT` (R166). -/
def execPageNext (s : State) : Host.Outcome State Fault Refusal :=
  if s.status.dead then .next (complete .eoi s)
  else .next (nextFrom (s.setRej RejInfo.reset) s.pos.toNat)

end Sys2Proof.Machine
end

