-- ==== Sys2Proof/Machine/Dispatch.lean ====
section
/-! DEFINITION. One arm per command. -/

namespace Sys2Proof.Machine

/-- The whole rule of a command, as one transition (R227). -/
def exec (i : Instr) (s : State) : Host.Outcome State Fault Refusal :=
  match i with
  | .nop => Sys2Proof.Machine.execNop s
  | .crcClear => Sys2Proof.Machine.execCrcClear s
  | .crcByte b => Sys2Proof.Machine.execCrcByte b s
  | .crcRun => Sys2Proof.Machine.execCrcRun s
  | .pageCheck => Sys2Proof.Machine.execPageCheck s
  | .pageNext => Sys2Proof.Machine.execPageNext s
  | .wasteClear => Sys2Proof.Machine.execWasteClear s
  | .streamsClear => Sys2Proof.Machine.execStreamsClear s
  | .softReset => Sys2Proof.Machine.execSoftReset s

end Sys2Proof.Machine
end

