-- ==== Sys2Proof/Machine/HostAccess.lean ====
section
/-! DEFINITION. The register space as the host reads and writes it (R32, R85 to R88, R94, R224, R265), and `WAIT` (R118). -/

namespace Sys2Proof.Machine

/-- The registers of R32. -/
inductive Reg where
  | id | version | ctrl | status | cmd | crc | posLo | posHi | srcLenLo | srcLenHi | argAddrLo | argAddrHi | argLen
  | wasteLo | wasteHi | rejInfo | crcStored | crcComputed | pgOffLo | pgOffHi | pgLen | pgHdr | pgGranLo | pgGranHi
  | pgSerial | pgSeq | pgPayloadLen | pgInfo
deriving DecidableEq, Repr

/-- The registers in the order of their offsets, four bytes apart from 0x000 (R32). -/
def Reg.all : List Reg :=
  [.id, .version, .ctrl, .status, .cmd, .crc, .posLo, .posHi, .srcLenLo, .srcLenHi, .argAddrLo, .argAddrHi, .argLen,
   .wasteLo, .wasteHi, .rejInfo, .crcStored, .crcComputed, .pgOffLo, .pgOffHi, .pgLen, .pgHdr, .pgGranLo, .pgGranHi,
   .pgSerial, .pgSeq, .pgPayloadLen, .pgInfo]

/-- The offset column of R32. -/
def Reg.offset : Reg → BitVec 12
  | .id           => 0x000
  | .version      => 0x004
  | .ctrl         => 0x008
  | .status       => 0x00C
  | .cmd          => 0x010
  | .crc          => 0x014
  | .posLo        => 0x018
  | .posHi        => 0x01C
  | .srcLenLo     => 0x020
  | .srcLenHi     => 0x024
  | .argAddrLo    => 0x028
  | .argAddrHi    => 0x02C
  | .argLen       => 0x030
  | .wasteLo      => 0x034
  | .wasteHi      => 0x038
  | .rejInfo      => 0x03C
  | .crcStored    => 0x040
  | .crcComputed  => 0x044
  | .pgOffLo      => 0x048
  | .pgOffHi      => 0x04C
  | .pgLen        => 0x050
  | .pgHdr        => 0x054
  | .pgGranLo     => 0x058
  | .pgGranHi     => 0x05C
  | .pgSerial     => 0x060
  | .pgSeq        => 0x064
  | .pgPayloadLen => 0x068
  | .pgInfo       => 0x06C

/-- What stands at a mapped offset (R85). -/
inductive Target where
  | reg (r : Reg)
  /-- word `k` of the SEG window (R54) -/
  | seg (k : Nat)
  /-- word `k` of slot `i`'s 32 bytes (R56) -/
  | stream (i k : Nat)
  /-- word `k` of packet entry `i` (R55) -/
  | pkt (i k : Nat)
deriving DecidableEq, Repr

/-- The map of R85 at an offset that is a multiple of 4; none where it is unmapped. -/
def targetAt (off : Nat) : Option Target :=
  if off < 0x070 then (Reg.all[off / 4]?).map .reg
  else if off < 0x100 then none
  else if off < 0x200 then some (.seg ((off - 0x100) / 4))
  else if off < 0x400 then none
  else if off < 0x800 then some (.stream ((off - 0x400) / 32) ((off - 0x400) % 32 / 4))
  else some (.pkt ((off - 0x800) / 8) ((off - 0x800) % 8 / 4))

/-- R86, R87: the target of an access the block defines; none where it takes `raise BusError(off)`. -/
def resolve (width : Width) (off : BitVec 12) : Option Target :=
  if width = .w32 ∧ off.toNat % 4 = 0 then targetAt off.toNat else none

/-- The register-space offset of a bus address; none outside the block's 4 KiB (R85). -/
def selectOffset (base addr : Nat) : Option (BitVec 12) :=
  if base ≤ addr ∧ addr < base + 4096 then some (BitVec.ofNat 12 (addr - base)) else none

/-- The value a register or window word holds (R33 to R56); `CMD` reads 0 (R37). -/
def peek (s : State) : Target → Word
  | .reg .id           => idWord
  | .reg .version      => versionWord s.cfg
  | .reg .ctrl         => s.ctrl.toWord
  | .reg .status       => s.status.toWord s.busy
  | .reg .cmd          => 0
  | .reg .crc          => s.crc
  | .reg .posLo        => lo32 s.pos
  | .reg .posHi        => hi32 s.pos
  | .reg .srcLenLo     => lo32 s.src.len
  | .reg .srcLenHi     => hi32 s.src.len
  | .reg .argAddrLo    => lo32 s.argAddr
  | .reg .argAddrHi    => hi32 s.argAddr
  | .reg .argLen       => s.argLen
  | .reg .wasteLo      => lo32 s.waste
  | .reg .wasteHi      => hi32 s.waste
  | .reg .rejInfo      => s.rej.toWord
  | .reg .crcStored    => s.crcPair.stored
  | .reg .crcComputed  => s.crcPair.computed
  | .reg .pgOffLo      => lo32 s.pg.off
  | .reg .pgOffHi      => hi32 s.pg.off
  | .reg .pgLen        => s.pg.len
  | .reg .pgHdr        => s.pg.hdrWord
  | .reg .pgGranLo     => lo32 s.pg.gran
  | .reg .pgGranHi     => hi32 s.pg.gran
  | .reg .pgSerial     => s.pg.serial
  | .reg .pgSeq        => s.pg.seq
  | .reg .pgPayloadLen => s.pg.payloadLen
  | .reg .pgInfo       => s.pg.info.toWord
  | .seg k             => s.pg.segWord k
  | .stream i k        => (s.slotAt i).word k
  | .pkt i 0           => (s.pg.pktEntry i).word0
  | .pkt i _           => (s.pg.pktEntry i).word1

/-- What a read returns is defined while `BUSY = 1` for these registers alone (R265). -/
def Target.definedBusy : Target → Bool
  | .reg .id       => true
  | .reg .version  => true
  | .reg .ctrl     => true
  | .reg .status   => true
  | .reg .srcLenLo => true
  | .reg .srcLenHi => true
  | _              => false

/-- A host read of a target: its value, or while busy a draw (R94, R265); the value is recorded (R117). -/
def readTarget (t : Target) (s : State) : State :=
  if s.busy && !t.definedBusy then drawn (record (Config.freeWord s.host.draws) s)
  else record (peek s t) s

/-- A write to a register that may be written only while idle (R224, R266). -/
def idleOnly (write : State → State) (s : State) : State := if s.busy then overrun s else write s

/-- A host write to a target: RO registers and windows ignore it (R88). -/
def writeTarget (v : Word) (s : State) : Target → State
  | .reg .ctrl      => idleOnly (·.setCtrl (Ctrl.ofWord v)) s
  | .reg .status    => acknowledge v s
  | .reg .cmd       => idleOnly (accept v) s
  | .reg .crc       => idleOnly (·.setCrc v) s
  | .reg .posLo     => idleOnly (fun s => (s.setPos (withLo s.pos v)).setStatus s.status.undead) s
  | .reg .posHi     => idleOnly (fun s => (s.setPos (withHi s.pos v)).setStatus s.status.undead) s
  | .reg .argAddrLo => idleOnly (fun s => s.setArgAddr (withLo s.argAddr v)) s
  | .reg .argAddrHi => idleOnly (fun s => s.setArgAddr (withHi s.argAddr v)) s
  | .reg .argLen    => idleOnly (·.setArgLen v) s
  | _               => s

/-- An access at a bus address: another device's (log entry 5), a bus error (R225), or an access to a target. -/
def access (width : Width) (addr : Nat) (act : Target → State) (s : State) : Host.Outcome State Fault Refusal :=
  match selectOffset s.cfg.mmioBase addr with
  | none     => .refused (.otherDevice addr)
  | some off =>
    match resolve width off with
    | none   => .fault (.busError off)
    | some t => .next (act t)

/-- `MmioRead` (R12). -/
def hostRead (width : Width) (addr : Nat) (s : State) : Host.Outcome State Fault Refusal :=
  access width addr (fun t => readTarget t s) s

/-- `MmioWrite` (R12). -/
def hostWrite (width : Width) (addr : Nat) (v : Word) (s : State) : Host.Outcome State Fault Refusal :=
  access width addr (writeTarget v s) s

/-- One poll of `WAIT` (R118): a read of STATUS. If it shows `BUSY = 0` and `DONE = 1` the host goes on; if not, the host
polls again, after the engine's turn if there is a command in flight (R227's fairness, log entry 1). -/
def hostWait (s : State) : State :=
  let t := readTarget (.reg .status) s
  if s.busy then t.withAgenda (.engine :: .wait :: s.host.agenda)
  else if s.status.done then t
  else t.withAgenda (.wait :: s.host.agenda)

end Sys2Proof.Machine
end

