-- ==== Sys2Proof/Machine/Step.lean ====
section
/-! DEFINITION. One step: the next turn of the interleaving of host, engine, byte source and reset (R6, R227, R231). -/

namespace Sys2Proof.Machine

/-- The engine's step (R227): it decodes `PENDING` and performs the whole command; while `BUSY = 0` it has none. -/
def engineStep (s : State) : Host.Outcome State Fault Refusal :=
  match s.pending with
  | none   => .next s
  | some w =>
    match decode w with
    | .ok i    => exec i s
    | .error _ => execIllegal s

/-- One turn, taken from the agenda. -/
def takeTurn (t : Turn) (s : State) : Host.Outcome State Fault Refusal :=
  match t with
  | .read width addr    => hostRead width addr s
  | .write width addr v => hostWrite width addr v s
  | .wait               => .next (hostWait s)
  | .engine             => engineStep s
  | .attach len cells   => .next (attachSource len cells s)
  | .reset              => .next (resetInput s)

/-- The step: the first turn of the agenda, or with none left the engine's, until the block is idle and nothing moves
any more (R238, R271). -/
def step (s : State) : Host.Outcome State Fault Refusal :=
  match s.host.agenda with
  | []        => engineStep s
  | t :: rest => takeTurn t (s.withAgenda rest)

/-- The state in which the command word of a table row has been accepted (R226) and the engine has the next turn. -/
def State.withFetchWord (s : State) (nbits w : Nat) : State :=
  (accept (tableWord nbits w) s).withAgenda (.engine :: s.host.agenda)

end Sys2Proof.Machine
end

