-- ==== Sys2Proof/Machine/HostProgram.lean ====
section
/-! DEFINITION. Host programs: the assembler's lines and pseudo-instructions, and the accesses they expand to (R117, R118). -/

namespace Sys2Proof.Machine

/-- A line of a host program. Values are the numbers written in it, not yet words. -/
inductive Line where
  /-- `WR <REG>, <value>` -/
  | wr (r : Reg) (v : Nat)
  /-- `WR @<offset>, <value>` -/
  | wrAt (off v : Nat)
  /-- `RD <REG>` -/
  | rd (r : Reg)
  /-- `RD @<offset>` -/
  | rdAt (off : Nat)
  /-- `<MNEMONIC>`, and `CRC_BYTE <b>` -/
  | command (i : Instr)
  /-- `.word <value>` -/
  | word (v : Nat)
  /-- `WAIT` -/
  | wait
  /-- `ACK` -/
  | ack
  /-- `DO <MNEMONIC>` -/
  | doCommand (i : Instr)
  /-- `SEEK <v>` -/
  | seek (v : Nat)
  /-- `CRCARG <a>, <n>` -/
  | crcArg (a n : Nat)
  /-- `CRC_BYTES <b0>, ..., <bk>` -/
  | crcBytes (bs : List Byte)
deriving DecidableEq, Repr

/-- R117: values are below 2^32 (a `SEEK` or `CRCARG` offset below 2^64, its two words being written), offsets lie in the
register space. -/
def Line.wellFormed : Line → Bool
  | .wr _ v      => decide (v < 2 ^ 32)
  | .wrAt off v  => decide (off < 4096) && decide (v < 2 ^ 32)
  | .rd _        => true
  | .rdAt off    => decide (off < 4096)
  | .command _   => true
  | .word v      => decide (v < 2 ^ 32)
  | .wait        => true
  | .ack         => true
  | .doCommand _ => true
  | .seek v      => decide (v < 2 ^ 64)
  | .crcArg a n  => decide (a < 2 ^ 64) && decide (n < 2 ^ 32)
  | .crcBytes _  => true

/-- `MmioWrite(off, v)` at `MMIO_BASE + off` (R12). -/
def writeTurn (base off v : Nat) : Turn := .write .w32 (base + off) (BitVec.ofNat 32 v)

/-- A write to a named register. -/
def writeReg (base : Nat) (r : Reg) (v : Nat) : Turn := writeTurn base r.offset.toNat v

/-- A 64-bit value is written as its two halves, the low one first (R118). -/
def writeHalves (base : Nat) (lo hi : Reg) (v : Nat) : List Turn :=
  [writeReg base lo (v % 2 ^ 32), writeReg base hi (v / 2 ^ 32)]

/-- A command word written to `CMD`. -/
def issue (base : Nat) (i : Instr) : Turn := writeReg base .cmd (encode i).toNat

/-- The accesses a line stands for (R117, R118). -/
def Line.expand (base : Nat) : Line → List Turn
  | .wr r v      => [writeReg base r v]
  | .wrAt off v  => [writeTurn base off v]
  | .rd r        => [.read .w32 (base + r.offset.toNat)]
  | .rdAt off    => [.read .w32 (base + off)]
  | .command i   => [issue base i]
  | .word v      => [writeReg base .cmd v]
  | .wait        => [.wait]
  | .ack         => [writeReg base .status 0x0000000E]
  | .doCommand i => [issue base i, .wait]
  | .seek v      => writeHalves base .posLo .posHi v
  | .crcArg a n  => writeHalves base .argAddrLo .argAddrHi a ++ [writeReg base .argLen n]
  | .crcBytes bs => bs.flatMap fun b => [issue base (.crcByte b), .wait]

/-- The host is given a program to run: its lines' accesses follow the turns it still has.
DESIGN CHOICE (log entry 8): where the engine steps among the lines is open (R227, R231). Here it steps in WAIT and after
the last line alone, so a command no WAIT follows is in flight at every later line; every other order is an agenda with
`Turn.engine` between the lines' accesses (`State.withAgenda`). -/
def State.withProgram (s : State) (p : List Line) : State :=
  s.withAgenda (s.host.agenda ++ p.flatMap (Line.expand s.cfg.mmioBase))

end Sys2Proof.Machine
end

