-- ==== Sys2Proof/Machine/PageImage.lean ====
section
/-! DEFINITION. The layout of a page, written out from its fields (R150), and the segments a packet length stands for: the
form in which the byte source holds what the page commands read. -/

namespace Sys2Proof.Machine

/-- The fields of a page that R150 leaves to whoever wrote it; the capture pattern, version, CRC and N follow. -/
structure PageFields where
  flags   : Byte
  gran    : DWord
  serial  : Word
  seq     : Word
  segs    : List Byte
  payload : List Byte
deriving DecidableEq, Repr

/-- The `k` bytes of a number, least significant first (R89). -/
def leBytes : Nat → Nat → List Byte
  | 0,     _ => []
  | k + 1, n => BitVec.ofNat 8 n :: leBytes k (n / 256)

/-- At most 255 segments, and a payload of the segments' sum (R150). -/
def PageFields.wellFormed (f : PageFields) : Bool :=
  decide (f.segs.length ≤ 255) && decide (f.payload.length = segSum f.segs)

/-- Bytes 0 to 21 of the header (R150). -/
def PageFields.front (f : PageFields) : List Byte :=
  capturePattern ++ [0, f.flags] ++ leBytes 8 f.gran.toNat ++ leBytes 4 f.serial.toNat ++ leBytes 4 f.seq.toNat

/-- Byte 26 of the header, the segment table and the payload (R150). -/
def PageFields.back (f : PageFields) : List Byte := [BitVec.ofNat 8 f.segs.length] ++ f.segs ++ f.payload

/-- The page's CRC: over all its bytes with the CRC field zeroed (R157). -/
def PageFields.crc (f : PageFields) : Word := crcBytes crcInit (f.front ++ [0, 0, 0, 0] ++ f.back)

/-- The bytes of the page (R150). -/
def PageFields.image (f : PageFields) : List Byte := f.front ++ leBytes 4 f.crc.toNat ++ f.back

/-- The page record `PageCheck` makes of the page at offset `c` (R151). -/
def PageFields.page (f : PageFields) (c : Nat) : Page where
  off     := c
  len     := hdrLen + f.segs.length + segSum f.segs
  version := 0
  flags   := f.flags
  gran    := f.gran
  serial  := f.serial
  seq     := f.seq
  nseg    := f.segs.length
  segs    := f.segs
  plen    := segSum f.segs

/-- The byte source holds these bytes at offset `c`, and nothing has changed it while busy. -/
def State.holdsAt (s : State) (c : Nat) (bs : List Byte) : Prop :=
  s.src.disturb = none ∧ c + bs.length ≤ s.src.len.toNat ∧ ∀ i, i < bs.length → s.src.mem.read (c + i) = bs.getD i 0

/-- The segments of a packet: as many of 255 as it holds, then a closing one below 255
(95_test_vectors.md section 4, which derives it from R160). -/
def packetSegs (n : Nat) : List Byte := List.replicate (n / 255) 255 ++ [BitVec.ofNat 8 (n % 255)]

/-- The complete packets of these lengths, one after another from offset `start` on, as packet entries. -/
def packetFrags : Nat → List Nat → List Frag
  | _,     []      => []
  | start, n :: ns => ⟨start, n, true, false⟩ :: packetFrags (start + n) ns

end Sys2Proof.Machine
end

