-- ==== Sys2Proof/Safety.lean ====
section
/-! DEFINITION. What holds of every state a run reaches (R61 and what goes with it), and what a run's end and its
observation are (R271). -/

namespace Sys2Proof.Machine

/-- The last accepted page's registers and tables agree with one another (R61, R54, R55).
Before any page is accepted they are all 0, `PG_LEN` with them (R260, log entry 6). -/
def PageRegs.consistent (p : PageRegs) : Prop :=
  p = PageRegs.reset ∨
  (p.info.pktCount.toNat ≤ 255 ∧
   p.len.toNat = hdrLen + p.nseg.toNat + p.payloadLen.toNat ∧
   p.payloadLen.toNat = segSum (p.seg.toList.take p.nseg.toNat) ∧
   p.version = 0 ∧
   (∀ i, p.nseg.toNat ≤ i → p.segByte i = 0) ∧
   (∀ i, p.info.pktCount.toNat ≤ i → p.pktEntry i = PktEntry.zero))

/-- The stream table: slots that do not exist or are invalid are all 0, and no two valid slots share a serial (R56, R61). -/
def slotsConsistent (n : Nat) (slots : Vector Slot 32) : Prop :=
  (∀ i : Fin 32, n ≤ i.val → slots[i] = Slot.zero) ∧
  (∀ i : Fin 32, slots[i].valid = false → slots[i] = Slot.zero) ∧
  (∀ i j : Fin 32, slots[i].valid = true → slots[j].valid = true → slots[i].serial = slots[j].serial → i = j)

/-- The byte source is canonical, and a change while busy leaves a range of lengths only while busy. -/
def State.sourceConsistent (s : State) : Prop :=
  s.src.wf = true ∧
  (∀ d, s.src.disturb = some d → s.busy = true ∧ d.lo ≤ d.hi ∧ d.hi < 2 ^ 64)

/-- What every step keeps. -/
structure State.Inv (s : State) : Prop where
  cfg    : s.cfg.legal = true
  source : s.sourceConsistent
  page   : s.pg.consistent
  slots  : slotsConsistent s.cfg.streamSlots s.slots
  /-- A command in flight has cleared `DONE` (R226). -/
  done   : s.busy = true → s.status.done = false
  /-- CORRUPT follows a rejection, and while `DEAD = 1` no page is accepted (R169). -/
  dead   : s.status.dead = true → s.status.lostSync = true
  /-- `LAST_REJ` is 0 exactly when no candidate was rejected (R43). -/
  rej    : s.rej.count = 0 ↔ s.rej.last = none

/-- The end of a run: the host has executed its last line and `BUSY = 0` (R271). -/
def State.ended (s : State) : Prop := s.host.agenda = [] ∧ s.busy = false

/-- What is observed at the end of a run: the block's state, as the host may read it, and the values the reads returned (R271). -/
def State.observation (s : State) : (Target → Word) × List Word := (peek s, s.host.reads.reverse)

/-- A host access that is no bus error (R86, R87). -/
def goodAccess (width : Width) (off : BitVec 12) : Prop :=
  width = .w32 ∧ off.toNat % 4 = 0 ∧
  (off.toNat < 0x070 ∨ (0x100 ≤ off.toNat ∧ off.toNat < 0x200) ∨ 0x400 ≤ off.toNat)

/-- A turn whose step is no fault and no refusal: an access meets R86 and R87 and is the block's own. -/
def Turn.good (cfg : Config) : Turn → Prop
  | .read width addr    => ∃ off, selectOffset cfg.mmioBase addr = some off ∧ goodAccess width off
  | .write width addr _ => ∃ off, selectOffset cfg.mmioBase addr = some off ∧ goodAccess width off
  | .wait               => True
  | .engine             => True
  | .attach _ _         => True
  | .reset              => True

end Sys2Proof.Machine
end

