-- ==== Sys2Proof/Certificates/Slice0/Obligations.lean ====
section
/-! DEFINITION. What is claimed of the machine; each statement names the rules of spec/ it formalises. -/

open Sys2Proof Sys2Proof.Machine

/-! ## Commands and their words -/

/-- R113: the nine rows' words stand for their commands, and no word matches two rows. -/
def Obligations.OpcodeMapWordsDecode : Prop :=
  (decode 0x00000000 = .ok .nop ∧ decode 0x00000001 = .ok .crcClear ∧
   (∀ b : Byte, decode (0x00000002 ||| (b.setWidth 32 <<< 8)) = .ok (.crcByte b)) ∧
   decode 0x00000003 = .ok .crcRun ∧ decode 0x00000010 = .ok .pageCheck ∧ decode 0x00000011 = .ok .pageNext ∧
   decode 0x00000020 = .ok .wasteClear ∧ decode 0x00000021 = .ok .streamsClear ∧
   decode 0x000000FF = .ok .softReset) ∧
  ∀ (w : Word) (r r' : Row), r ∈ opcodeMap → r' ∈ opcodeMap → w &&& r.mask = r.pattern → w &&& r'.mask = r'.pattern →
    r.pattern = r'.pattern

/-- R110, R113, R114: a word decodes to a command exactly if it is that command's encoding, so no legal word is dropped,
none is read as two commands, and every operand value comes back. -/
def Obligations.DecodeInvertsEncode : Prop :=
  ∀ (w : Word) (i : Instr), decode w = .ok i ↔ w = encode i

/-- R114: which words are illegal, and that an illegal word is accepted and completes with ILLEGAL. -/
def Obligations.IllegalWordsCompleteIllegal : Prop :=
  (∀ w : Word, (∃ e, decode w = .error e) ↔
    (w.extractLsb' 0 8 ∉ ([0x00, 0x01, 0x02, 0x03, 0x10, 0x11, 0x20, 0x21, 0xFF] : List Byte) ∨
     w.extractLsb' 16 16 ≠ 0#16 ∨ (w.extractLsb' 8 8 ≠ 0#8 ∧ w.extractLsb' 0 8 ≠ 0x02#8))) ∧
  ∀ (s : State) (w : Word), s.busy = false →
    (writeTarget w s (.reg .cmd)).pending = some w ∧
    ∀ e, decode w = .error e →
      engineStep (writeTarget w s (.reg .cmd)) = .next (complete .illegal (writeTarget w s (.reg .cmd)))

/-! ## The life of a command -/

/-- R227: the engine's turn performs the whole rule of the decoded pending command, and with no turn left the engine runs on;
the word that `withFetchWord` places is the next one run. A host turn is the host's access, a reset turn the reset input.
That the turns stand in an agenda is the model's choice (log entry 1). -/
def Obligations.StepRunsTheDecodedCommand : Prop :=
  (∀ (s : State) (w : Word) (i : Instr), s.pending = some w → decode w = .ok i →
    (s.host.agenda = [] → step s = exec i s) ∧
    ∀ rest, s.host.agenda = .engine :: rest → step s = exec i (s.withAgenda rest)) ∧
  (∀ (s : State) (nbits w : Nat) (i : Instr), decode (tableWord nbits w) = .ok i →
    step (s.withFetchWord nbits w) = exec i (accept (tableWord nbits w) s)) ∧
  ∀ (s : State) (rest : List Turn),
    (∀ width addr, s.host.agenda = .read width addr :: rest → step s = hostRead width addr (s.withAgenda rest)) ∧
    (∀ width addr v, s.host.agenda = .write width addr v :: rest → step s = hostWrite width addr v (s.withAgenda rest)) ∧
    (s.host.agenda = .reset :: rest → step s = .next (resetInput (s.withAgenda rest)))

/-- R227, R238: while `BUSY = 0` the engine has no step; with no turn left the machine stands still.
That the turns stand in an agenda is the model's choice (log entry 1). -/
def Obligations.IdleEngineStandsStill : Prop :=
  ∀ s : State, s.busy = false →
    (s.host.agenda = [] → step s = .next s) ∧
    ∀ rest, s.host.agenda = .engine :: rest → step s = .next (s.withAgenda rest)

/-- R226: acceptance sets PENDING, BUSY and DONE and nothing else, and at most one command is in flight. -/
def Obligations.AcceptanceStartsOneCommand : Prop :=
  ∀ (s : State) (w : Word),
    (s.busy = false → ∃ t, hostWrite .w32 (s.cfg.mmioBase + 0x010) w s = .next t ∧ t.busy = true ∧
      t = { s with pending := some w, status := { s.status with done := false } }) ∧
    (s.busy = true → ∃ t, hostWrite .w32 (s.cfg.mmioBase + 0x010) w s = .next t ∧ t.pending = s.pending)

/-- R222: what completion with a result code writes, and that it writes nothing else of the block. -/
def Obligations.CompletionWritesResultErrAndDone : Prop :=
  ∀ (code : ResultCode) (s : State), ∃ t, complete code s = t ∧ t.busy = false ∧
    t.src.len = s.src.len ∧ t.src.mem = s.src.mem ∧
    t = { s with
          src := t.src
          pending := none
          status := { s.status with
            result := code
            done := true
            err := s.status.err ||
              decide (code ∈ [ResultCode.truncated, .corrupt, .rejCapture, .rejVersion, .rejNseg, .rejCrc, .illegal]) } }

/-- R220: every command runs to its end from every state, idle again, with one result and the host told. -/
def Obligations.EveryCommandCompletes : Prop :=
  ∀ (i : Instr) (s : State), ∃ t, exec i s = .next t ∧ t.busy = false ∧ t.status.done = true ∧
    t.host = s.host ∧ t.cfg = s.cfg ∧ (i ≠ .softReset → t.status.overrun = s.status.overrun)

/-- R221: the codes' values, which of them set ERR, and which command can end with which. -/
def Obligations.ResultsByCommand : Prop :=
  (ResultCode.code .ok = 0x00 ∧ ResultCode.code .eoi = 0x01 ∧ ResultCode.code .truncated = 0x02 ∧
   ResultCode.code .corrupt = 0x03 ∧ ResultCode.code .rejCapture = 0x10 ∧ ResultCode.code .rejVersion = 0x11 ∧
   ResultCode.code .rejNseg = 0x12 ∧ ResultCode.code .rejCrc = 0x13 ∧ ResultCode.code .illegal = 0x20) ∧
  ∀ (i : Instr) (s t : State), exec i s = .next t →
    (i ≠ .softReset → t.status.err = (s.status.err || !(t.status.result = .ok || t.status.result = .eoi))) ∧
    match i with
    | .crcRun    => t.status.result ∈ [ResultCode.ok, .truncated]
    | .pageCheck => t.status.result ∈ [ResultCode.ok, .eoi, .truncated, .rejCapture, .rejVersion, .rejNseg, .rejCrc]
    | .pageNext  => t.status.result ∈ [ResultCode.ok, .eoi, .truncated, .corrupt]
    | _          => t.status.result = .ok

/-- R118: `WAIT` on a command in flight ends: a poll, the command, a poll that shows `BUSY = 0` and `DONE = 1`. On an idle
block one poll is all there is if `DONE = 1`, and the poll is repeated if `DONE = 0`; nothing changes but what it records.
Where the polls and the engine's turn stand is the model's choice (log entry 1). -/
def Obligations.WaitPollsUntilDone : Prop :=
  (∀ (s : State) (rest : List Turn), s.busy = true → s.host.agenda = .wait :: rest →
    ∃ t w w', core.run 3 s = .next t ∧ t.busy = false ∧ t.host.agenda = rest ∧ t.host.reads = w' :: w :: s.host.reads ∧
      w.getLsbD 0 = true ∧ w'.getLsbD 0 = false ∧ w'.getLsbD 1 = true ∧ t.host.draws = s.host.draws) ∧
  ∀ (s : State) (rest : List Turn), s.busy = false → s.host.agenda = .wait :: rest →
    ∃ w, peek s (.reg .status) = w ∧ w.getLsbD 0 = false ∧ w.getLsbD 1 = s.status.done ∧
      step s = .next { s with
        host := { s.host with
          agenda := if s.status.done then rest else .wait :: rest
          reads := w :: s.host.reads } }

/-! ## The register space -/

/-- R86, R87, R225: an access of another width, misaligned or at an unmapped offset is a bus error; a 32-bit aligned one
to a register or a window never is, busy or not. -/
def Obligations.BusErrorsAreExactlyR86AndR87 : Prop :=
  ∀ (s : State) (width : Width) (off : BitVec 12) (v : Word),
    (if width = .w32 ∧ off.toNat % 4 = 0 ∧
        (off.toNat ≤ 0x06F ∨ (0x100 ≤ off.toNat ∧ off.toNat ≤ 0x1FF) ∨ 0x400 ≤ off.toNat) then
      (∃ t, hostRead width (s.cfg.mmioBase + off.toNat) s = .next t) ∧
      (∃ t, hostWrite width (s.cfg.mmioBase + off.toNat) v s = .next t)
    else
      hostRead width (s.cfg.mmioBase + off.toNat) s = .fault (.busError off) ∧
      hostWrite width (s.cfg.mmioBase + off.toNat) v s = .fault (.busError off))

/-- R32, R85: every register stands at its offset, and the windows' words at theirs, and a host access at `MMIO_BASE` plus an
offset reads or writes what stands there and nothing else. -/
def Obligations.RegisterMapIsR32 : Prop :=
  (∀ r : Reg, resolve .w32 r.offset = some (.reg r)) ∧
  (∀ k : Nat, k < 64 → resolve .w32 (BitVec.ofNat 12 (0x100 + 4 * k)) = some (.seg k)) ∧
  (∀ i k : Nat, i < 32 → k < 8 → resolve .w32 (BitVec.ofNat 12 (0x400 + 32 * i + 4 * k)) = some (.stream i k)) ∧
  (∀ i k : Nat, i < 256 → k < 2 → resolve .w32 (BitVec.ofNat 12 (0x800 + 8 * i + 4 * k)) = some (.pkt i k)) ∧
  ∀ (s : State) (off : BitVec 12) (g : Target) (v : Word), resolve .w32 off = some g →
    hostRead .w32 (s.cfg.mmioBase + off.toNat) s = .next (readTarget g s) ∧
    hostWrite .w32 (s.cfg.mmioBase + off.toNat) v s = .next (writeTarget v s g)

/-- R33, R34: the identification registers, whatever the state. -/
def Obligations.IdentificationRegisters : Prop :=
  (∀ s : State, s.cfg.legal = true →
    peek s (.reg .id) = 0x4F676753 ∧
    (peek s (.reg .version)).toNat = 0x01 + 256 * s.cfg.streamSlots) ∧
  ∀ s : State, s.cfg.streamSlots = 8 → peek s (.reg .version) = 0x00000801

/-- R36: the bits of STATUS. -/
def Obligations.StatusWordLayout : Prop :=
  ∀ s : State, ∃ w, peek s (.reg .status) = w ∧
    w.getLsbD 0 = s.busy ∧ w.getLsbD 1 = s.status.done ∧ w.getLsbD 2 = s.status.err ∧
    w.getLsbD 3 = s.status.overrun ∧ w.getLsbD 4 = s.status.dead ∧ w.getLsbD 5 = s.status.lostSync ∧
    w.extractLsb' 6 2 = 0#2 ∧ w.extractLsb' 8 8 = s.status.result.code ∧ w.extractLsb' 16 16 = 0#16

/-- R35, R37, R43, R47, R52, R54 to R56, R90: what the host reads in each register and window word but ID, VERSION and STATUS,
field by field: the reserved bits 0, the halves of a 64-bit value at `_LO` and `_HI`, the SEG bytes packed lowest first, the
256th packet entry 0, and 0 in every word of a slot that does not exist or is invalid. -/
def Obligations.HostReadableWordLayouts : Prop :=
  ∀ s : State,
    (∃ w, peek s (.reg .pgInfo) = w ∧
      w.extractLsb' 0 9 = s.pg.info.pktCount ∧ w.extractLsb' 9 7 = 0#7 ∧ w.getLsbD 16 = s.pg.info.lastCont ∧
      w.getLsbD 17 = s.pg.info.resync ∧ w.getLsbD 18 = s.pg.info.seqGap ∧ w.getLsbD 19 = s.pg.info.granRegress ∧
      w.getLsbD 20 = s.pg.info.newStream ∧ w.getLsbD 21 = s.pg.info.streamFull ∧ w.getLsbD 22 = s.pg.info.contChecked ∧
      w.getLsbD 23 = false ∧ w.extractLsb' 24 5 = s.pg.info.slot ∧ w.getLsbD 29 = s.pg.info.slotValid ∧
      w.extractLsb' 30 2 = 0#2) ∧
    (∃ w, peek s (.reg .ctrl) = w ∧
      w.getLsbD 0 = s.ctrl.irqDoneEn ∧ w.getLsbD 1 = s.ctrl.irqErrEn ∧ w.getLsbD 2 = s.ctrl.contEn ∧
      w.getLsbD 3 = s.ctrl.nseg0Accept ∧ w.extractLsb' 4 28 = 0#28) ∧
    (∃ w, peek s (.reg .rejInfo) = w ∧
      w.extractLsb' 0 16 = s.rej.count ∧
      w.extractLsb' 16 8 =
        (match s.rej.last with
         | none          => 0x00#8
         | some .capture => 0x10#8
         | some .version => 0x11#8
         | some .nseg    => 0x12#8
         | some .crc     => 0x13#8) ∧
      w.extractLsb' 24 8 = 0#8) ∧
    (∃ w, peek s (.reg .pgHdr) = w ∧
      w.extractLsb' 0 8 = s.pg.version ∧ w.extractLsb' 8 8 = s.pg.flags ∧ w.extractLsb' 16 8 = s.pg.nseg ∧
      w.extractLsb' 24 8 = 0#8) ∧
    (∀ p ∈ [(s.pos, Reg.posLo, Reg.posHi), (s.src.len, .srcLenLo, .srcLenHi), (s.argAddr, .argAddrLo, .argAddrHi),
        (s.waste, .wasteLo, .wasteHi), (s.pg.off, .pgOffLo, .pgOffHi), (s.pg.gran, .pgGranLo, .pgGranHi)],
      peek s (.reg p.2.1) = p.1.extractLsb' 0 32 ∧ peek s (.reg p.2.2) = p.1.extractLsb' 32 32) ∧
    (∀ p ∈ [((0 : Word), Reg.cmd), (s.crc, .crc), (s.argLen, .argLen), (s.crcPair.stored, .crcStored),
        (s.crcPair.computed, .crcComputed), (s.pg.len, .pgLen), (s.pg.serial, .pgSerial), (s.pg.seq, .pgSeq),
        (s.pg.payloadLen, .pgPayloadLen)],
      peek s (.reg p.2) = p.1) ∧
    (∀ k j : Nat, k < 64 → j < 4 → (peek s (.seg k)).extractLsb' (8 * j) 8 = s.pg.seg.toList.getD (4 * k + j) 0) ∧
    (∀ i : Fin 255, ∃ w0 w1, peek s (.pkt i 0) = w0 ∧ peek s (.pkt i 1) = w1 ∧
      w0.extractLsb' 0 16 = s.pg.pkt[i].offset ∧ w0.extractLsb' 16 16 = 0#16 ∧
      w1.extractLsb' 0 16 = s.pg.pkt[i].length ∧ w1.extractLsb' 16 14 = 0#14 ∧
      w1.getLsbD 30 = s.pg.pkt[i].contFragment ∧ w1.getLsbD 31 = s.pg.pkt[i].complete) ∧
    (peek s (.pkt 255 0) = 0 ∧ peek s (.pkt 255 1) = 0) ∧
    ∀ i : Fin 32,
      if i.val < s.cfg.streamSlots ∧ s.slots[i].valid = true then
        peek s (.stream i 0) = s.slots[i].serial ∧ peek s (.stream i 1) = s.slots[i].lastSeq ∧
        peek s (.stream i 2) = s.slots[i].lastGran.extractLsb' 0 32 ∧
        peek s (.stream i 3) = s.slots[i].lastGran.extractLsb' 32 32 ∧
        (∃ w, peek s (.stream i 4) = w ∧ w.getLsbD 0 = true ∧ w.getLsbD 1 = s.slots[i].hasGran ∧
          w.getLsbD 2 = s.slots[i].eosSeen ∧ w.extractLsb' 3 29 = 0#29) ∧
        ∀ k, 5 ≤ k → peek s (.stream i k) = 0
      else
        ∀ k, peek s (.stream i k) = 0

/-- R94: a host read changes nothing the host can read, and the block not at all. -/
def Obligations.ReadsHaveNoSideEffects : Prop :=
  ∀ (s : State) (g : Target), ∃ h, readTarget g s = { s with host := h } ∧ h.agenda = s.host.agenda ∧
    ∃ v, h.reads = v :: s.host.reads ∧ (s.busy = false → v = peek s g) ∧ ∀ g', peek (readTarget g s) g' = peek s g'

/-- R265: while `BUSY = 1` a read of ID, VERSION, CTRL, STATUS or SRC_LEN is defined, and any other returns a draw, a
fresh one at each read. -/
def Obligations.ReadsWhileBusyAreDraws : Prop :=
  ∀ (s : State) (g : Target), s.busy = true →
    (if g ∈ [Target.reg .id, .reg .version, .reg .ctrl, .reg .status, .reg .srcLenLo, .reg .srcLenHi] then
      (readTarget g s).host = { s.host with reads := peek s g :: s.host.reads }
    else
      (readTarget g s).host =
        { s.host with reads := Config.freeWord s.host.draws :: s.host.reads, draws := s.host.draws + 1 })

/-- R88: read-only registers and windows ignore a write, busy or not. -/
def Obligations.ReadOnlyTargetsIgnoreWrites : Prop :=
  ∀ (s : State) (v : Word) (g : Target),
    (∀ r, g = .reg r → r ∉ [Reg.ctrl, .status, .cmd, .crc, .posLo, .posHi, .argAddrLo, .argAddrHi, .argLen]) →
    writeTarget v s g = s

/-- R224: a write that finds the block busy sets OVERRUN and ERR and does nothing else; one to STATUS or to a read-only
register or window is never an overrun. -/
def Obligations.BusyWritesOverrun : Prop :=
  ∀ (s : State) (v : Word), s.busy = true →
    (∀ r ∈ [Reg.cmd, .ctrl, .crc, .posLo, .posHi, .argAddrLo, .argAddrHi, .argLen],
      writeTarget v s (.reg r) = { s with status := { s.status with overrun := true, err := true } }) ∧
    ∀ g, (∀ r ∈ [Reg.cmd, .ctrl, .crc, .posLo, .posHi, .argAddrLo, .argAddrHi, .argLen], g ≠ .reg r) →
      (s.status.overrun = false → (writeTarget v s g).status.overrun = false) ∧ (writeTarget v s g).pending = s.pending

/-- R36: a write to STATUS, accepted busy or not, clears each of DONE, ERR, OVERRUN written as 1 and changes nothing else. -/
def Obligations.StatusWritesOneToClear : Prop :=
  ∀ (s : State) (v : Word),
    peek (writeTarget v s (.reg .status)) (.reg .status) = peek s (.reg .status) &&& ~~~(v &&& 0x0000000E) ∧
    { writeTarget v s (.reg .status) with status := s.status } = s

/-- R35, R38, R39, R41: an idle write to a register is read back (CTRL in its four bits), one half of a pair leaves the other
alone, a POS write lifts DEAD, and everything else the host can read stays. -/
def Obligations.IdleWritesReadBack : Prop :=
  ∀ (s : State) (v : Word), s.busy = false →
    peek (writeTarget v s (.reg .ctrl)) (.reg .ctrl) = v &&& 0x0000000F ∧
    (∀ r ∈ [Reg.crc, .posLo, .posHi, .argAddrLo, .argAddrHi, .argLen],
      peek (writeTarget v s (.reg r)) (.reg r) = v) ∧
    (∀ r ∈ [Reg.ctrl, .crc, .posLo, .posHi, .argAddrLo, .argAddrHi, .argLen],
      (∀ g, g ≠ .reg r → g ≠ .reg .status → peek (writeTarget v s (.reg r)) g = peek s g) ∧
      (writeTarget v s (.reg r)).status =
        { s.status with dead := s.status.dead && !(r = .posLo || r = .posHi) } ∧
      (writeTarget v s (.reg r)).busy = false)

/-- R228, R229: the interrupt line as the host's two registers show it, raised by a completion; each way of clearing a cause
leaves the other cause's half, and a reset leaves nothing. -/
def Obligations.InterruptFollowsItsCauses : Prop :=
  (∀ s : State, s.irq =
    (((peek s (.reg .status)).getLsbD 1 && (peek s (.reg .ctrl)).getLsbD 0) ||
     ((peek s (.reg .status)).getLsbD 2 && (peek s (.reg .ctrl)).getLsbD 1))) ∧
  (∀ (i : Instr) (s t : State), exec i s = .next t → i ≠ .softReset → s.ctrl.irqDoneEn = true → t.irq = true) ∧
  (∀ s : State,
    (writeTarget 0x00000002 s (.reg .status)).irq = (s.status.err && s.ctrl.irqErrEn) ∧
    (writeTarget 0x00000004 s (.reg .status)).irq = (s.status.done && s.ctrl.irqDoneEn) ∧
    (resetInput s).irq = false ∧
    ∀ t, exec .softReset s = .next t → t.irq = false) ∧
  ∀ (s : State) (v : Word), s.busy = false →
    (writeTarget v s (.reg .cmd)).irq = (s.status.err && s.ctrl.irqErrEn) ∧
    (writeTarget v s (.reg .ctrl)).irq = ((s.status.done && v.getLsbD 0) || (s.status.err && v.getLsbD 1))

/-- R60: only a W1C write to STATUS, SOFT_RESET and the reset input clear ERR or OVERRUN. -/
def Obligations.ErrAndOverrunAreSticky : Prop :=
  ∀ s t : State, step s = .next t →
    ((s.status.err = true ∧ t.status.err = false) ∨ (s.status.overrun = true ∧ t.status.overrun = false)) →
    (∃ v rest, s.host.agenda = .write .w32 (s.cfg.mmioBase + 0x00C) v :: rest) ∨
    (∃ rest, s.host.agenda = .reset :: rest) ∨
    (s.pending = some 0x000000FF ∧ (s.host.agenda = [] ∨ ∃ rest, s.host.agenda = .engine :: rest))

/-! ## Reset -/

/-- R260: the reset input puts every piece of state at its reset value, abandons the command in flight, lowers the
interrupt, and leaves the byte source alone. -/
def Obligations.ResetInputResetsTheBlock : Prop :=
  ∀ s : State, ∃ t, takeTurn .reset s = .next t ∧ t.busy = false ∧ t.irq = false ∧
    t.src.len = s.src.len ∧ t.src.mem = s.src.mem ∧
    t = { State.reset with cfg := s.cfg, src := t.src, host := s.host } ∧
    (∀ g, g ∉ [Target.reg .id, .reg .version, .reg .ctrl, .reg .srcLenLo, .reg .srcLenHi] → peek t g = 0) ∧
    peek t (.reg .ctrl) = 0x00000004 ∧
    ∀ g ∈ [Target.reg .id, .reg .version, .reg .srcLenLo, .reg .srcLenHi], peek t g = peek s g

/-- R203: SOFT_RESET's word, and its effect: the reset values, with DONE set and no interrupt. -/
def Obligations.SoftResetRule : Prop :=
  decode 0x000000FF = .ok .softReset ∧
  ∀ s : State, ∃ t, exec .softReset s = .next t ∧ t.src.len = s.src.len ∧ t.src.mem = s.src.mem ∧
    t = { State.reset with
          cfg := s.cfg
          src := t.src
          host := s.host
          status := { State.reset.status with done := true } } ∧
    peek t (.reg .status) = 0x00000002 ∧ peek t (.reg .ctrl) = 0x00000004 ∧ t.irq = false ∧
    (∀ g, g ∉ [Target.reg .id, .reg .version, .reg .ctrl, .reg .status, .reg .srcLenLo, .reg .srcLenHi] → peek t g = 0)

/-! ## Control family -/

/-- R200: NOP's word and effect. -/
def Obligations.NopRule : Prop :=
  decode 0x00000000 = .ok .nop ∧
  ∀ s : State, ∃ t, exec .nop s = .next t ∧ t.src.len = s.src.len ∧ t.src.mem = s.src.mem ∧
    t = { s with
          src := t.src
          pending := none
          status := { s.status with result := .ok, done := true } }

/-- R201: WASTE_CLEAR's word and effect. -/
def Obligations.WasteClearRule : Prop :=
  decode 0x00000020 = .ok .wasteClear ∧
  ∀ s : State, ∃ t, exec .wasteClear s = .next t ∧ t.src.len = s.src.len ∧ t.src.mem = s.src.mem ∧
    t = { s with
          src := t.src
          waste := 0
          pending := none
          status := { s.status with result := .ok, done := true } }

/-- R202: STREAMS_CLEAR's word and effect; every word of the stream window then reads 0, and the next page of any serial is of
a new stream. -/
def Obligations.StreamsClearRule : Prop :=
  decode 0x00000021 = .ok .streamsClear ∧
  ∀ s : State, ∃ t, exec .streamsClear s = .next t ∧ t.src.len = s.src.len ∧ t.src.mem = s.src.mem ∧
    t = { s with
          src := t.src
          slots := Vector.replicate 32 Slot.zero
          pending := none
          status := { s.status with result := .ok, done := true } } ∧
    (∀ i k, peek t (.stream i k) = 0) ∧
    ∀ p : Page, t.ctrl.contEn = true → t.cfg.legal = true → (continuity t p).2.new = true

/-- R204: a word that matches no row, in flight, has no effect but its result. -/
def Obligations.IllegalWordRule : Prop :=
  (∀ w : Word, (∃ e, decode w = .error e) ↔ ∀ r ∈ opcodeMap, w &&& r.mask ≠ r.pattern) ∧
  (∀ w ∈ ([0x00000004, 0x00010010, 0x00000110] : List Word), ∃ e, decode w = .error e) ∧
  ∀ (s : State) (w : Word) (e : Illegal), s.pending = some w → decode w = .error e →
    ∃ t, engineStep s = .next t ∧ t.src.len = s.src.len ∧ t.src.mem = s.src.mem ∧
      t = { s with
            src := t.src
            pending := none
            status := { s.status with result := .illegal, done := true, err := true } }

/-! ## CRC family -/

/-- R133: the table form of the CRC update, with the entries the rule lists. -/
def Obligations.CrcTableForm : Prop :=
  (∀ (c : Word) (b : Byte),
    crcUpdate c b = (c <<< 8) ^^^ crcUpdate 0 (c.extractLsb' 24 8 ^^^ b)) ∧
  crcUpdate 0 0x00 = 0x00000000 ∧ crcUpdate 0 0x01 = 0x04C11DB7 ∧ crcUpdate 0 0x02 = 0x09823B6E ∧
  crcUpdate 0 0x03 = 0x0D4326D9 ∧ crcUpdate 0 0x80 = 0x690CE0EE ∧ crcUpdate 0 0xFF = 0xB1F740B4

/-- R134: zero bytes give 0, the CRC is linear over XOR, and flipping any single bit changes it. -/
def Obligations.CrcIsLinearAndSeesEveryBit : Prop :=
  (∀ (n : Nat) (xs : List Byte), crcBytes 0 (List.replicate n 0) = 0 ∧
    crcBytes 0 (List.replicate n 0 ++ xs) = crcBytes 0 xs) ∧
  (∀ xs ys : List Byte, xs.length = ys.length →
    crcBytes 0 (List.zipWith (· ^^^ ·) xs ys) = crcBytes 0 xs ^^^ crcBytes 0 ys) ∧
  ∀ (xs : List Byte) (i k : Nat), i < xs.length → k < 8 →
    crcBytes 0 (xs.set i (xs.getD i 0 ^^^ (1#8 <<< k))) ≠ crcBytes 0 xs

/-- R131, R132: the update loop written out bit by bit over numbers, and the fold. The bit order is R131's reading of the source,
which the spec marks as general knowledge (G1) and log entry 9 as PRESUMED. -/
def Obligations.CrcUpdateOverNumbers : Prop :=
  (∀ c : Word, (crcShift c).toNat =
    if 2 ^ 31 ≤ c.toNat then ((2 * c.toNat) % 2 ^ 32) ^^^ 0x04C11DB7 else 2 * c.toNat) ∧
  (∀ (c : Word) (b : Byte), crcUpdate c b =
    crcShift (crcShift (crcShift (crcShift (crcShift (crcShift (crcShift (crcShift
      (c ^^^ BitVec.ofNat 32 (b.toNat * 2 ^ 24)))))))))) ∧
  (∀ (c : Word) (b : Byte) (bs : List Byte), crcBytes c [] = c ∧ crcBytes c (b :: bs) = crcBytes (crcUpdate c b) bs) ∧
  ∀ (c : Word) (xs ys : List Byte), crcBytes c (xs ++ ys) = crcBytes (crcBytes c xs) ys

/-- R135: CRC_CLEAR's word and effect. -/
def Obligations.CrcClearRule : Prop :=
  decode 0x00000001 = .ok .crcClear ∧
  ∀ s : State, ∃ t, exec .crcClear s = .next t ∧ t.src.len = s.src.len ∧ t.src.mem = s.src.mem ∧
    t = { s with
          src := t.src
          crc := 0
          pending := none
          status := { s.status with result := .ok, done := true } }

/-- R136: CRC_BYTE's words and effect. -/
def Obligations.CrcByteRule : Prop :=
  (∀ b : Byte, decode (0x00000002 ||| (b.setWidth 32 <<< 8)) = .ok (.crcByte b)) ∧
  (∀ w : Word, w &&& 0xFFFF00FF = 0x00000002 → decode w = .ok (.crcByte (w.extractLsb' 8 8))) ∧
  (∀ (b : Byte) (s : State), ∃ t, exec (.crcByte b) s = .next t ∧ t.src.len = s.src.len ∧ t.src.mem = s.src.mem ∧
    t = { s with
          src := t.src
          crc := crcUpdate s.crc b
          pending := none
          status := { s.status with result := .ok, done := true } }) ∧
  crcUpdate 0 0x00 = 0 ∧ crcUpdate 0xFFFFFFFF 0x00 = 0x4E08BFB4 ∧ crcUpdate 0 0xFF = 0xB1F740B4 ∧
  crcUpdate 0 0x4F = 0x0CC9CDCA

/-- R137: CRC_RUN's word; a range that passes the end of the source is TRUNCATED and folds nothing; any other range, the
empty one too, is folded byte by byte. -/
def Obligations.CrcRunRule : Prop :=
  decode 0x00000003 = .ok .crcRun ∧
  ∀ s : State, s.src.disturb = none → ∃ (L a n : Nat) (range : List Byte) (t : State),
    L = s.src.len.toNat ∧ a = s.argAddr.toNat ∧ n = s.argLen.toNat ∧
    range = ((List.range n).map fun i => s.src.mem.read (a + i)) ∧ exec .crcRun s = .next t ∧ t.src = s.src ∧
    (L < a + n →
      t = { s with
            pending := none
            status := { s.status with result := .truncated, done := true, err := true } }) ∧
    (a + n ≤ L →
      t = { s with
            crc := crcBytes s.crc range
            pending := none
            status := { s.status with result := .ok, done := true } })

/-! ## Checking one candidate -/

/-- R152, R153, R154, R156, R158: the checks in their order; the first that fails decides, and the CRC pair is written
exactly when the comparison is reached. -/
def Obligations.ChecksRunInOrder : Prop :=
  ∀ (s : State) (c : Nat), ∃ L h n segs p, L = s.srcLen ∧ h = s.memRead .header c 27 ∧ n = (byteAt h 26).toNat ∧
    segs = s.memRead .segTable (c + 27) n ∧ p = segSum segs ∧
    (L ≤ c → pageCheck s c = (s, .eoi)) ∧
    (c < L →
      (L < c + 4 ∨ s.memRead .capture c 4 ≠ [0x4F, 0x67, 0x67, 0x53] → pageCheck s c = (s, .rejected .capture)) ∧
      (c + 4 ≤ L → s.memRead .capture c 4 = [0x4F, 0x67, 0x67, 0x53] →
        (L < c + 27 → pageCheck s c = (s, .truncated)) ∧
        (c + 27 ≤ L →
          (byteAt h 4 ≠ 0 → pageCheck s c = (s, .rejected .version)) ∧
          (byteAt h 4 = 0 →
            (n = 0 ∧ s.ctrl.nseg0Accept = false → pageCheck s c = (s, .rejected .nseg)) ∧
            (¬ (n = 0 ∧ s.ctrl.nseg0Accept = false) →
              (L < c + 27 + n + p → pageCheck s c = (s, .truncated)) ∧
              (c + 27 + n + p ≤ L →
                ∃ stored computed, (pageCheck s c).1 = s.setCrcPair ⟨stored, computed⟩ ∧
                  stored.toNat = leNat (slice h 22 4) ∧
                  computed = crcBytes 0 (h.take 22 ++ [0, 0, 0, 0] ++ [byteAt h 26] ++ segs
                    ++ s.memRead (.payload c) (c + 27 + n) p) ∧
                  (computed ≠ stored → (pageCheck s c).2 = .rejected .crc) ∧
                  (computed = stored → ∃ page, (pageCheck s c).2 = .ok page ∧ page.off = c ∧
                    page.len = 27 + n + p ∧ page.nseg = n ∧ page.segs = segs ∧ page.plen = p ∧
                    page.version = byteAt h 4 ∧ page.flags = byteAt h 5 ∧
                    page.gran.toNat = leNat (slice h 6 8) ∧ page.serial.toNat = leNat (slice h 14 4) ∧
                    page.seq.toNat = leNat (slice h 18 4))))))))

/-- R150, R151, R155, R157: a source that holds a page, written from its fields with its CRC, is accepted, and the page
record gives the fields back. -/
def Obligations.EveryPageIsAccepted : Prop :=
  ∀ (s : State) (c : Nat) (f : PageFields), f.wellFormed = true → s.holdsAt c f.image →
    (f.segs = [] → s.ctrl.nseg0Accept = true) →
    pageCheck s c = (s.setCrcPair ⟨f.crc, f.crc⟩, .ok (f.page c))

/-- R150, R151, R155, R157: nothing else is accepted: an accepted candidate is a page, and the record gives its fields. -/
def Obligations.OnlyPagesAreAccepted : Prop :=
  ∀ (s t : State) (c : Nat) (p : Page), s.src.disturb = none → pageCheck s c = (t, .ok p) →
    ∃ f : PageFields, f.wellFormed = true ∧ s.holdsAt c f.image ∧ p = f.page c ∧
      t = s.setCrcPair ⟨f.crc, f.crc⟩ ∧ (f.segs = [] → s.ctrl.nseg0Accept = true)

/-- R134 (c), R157: a page with one bit of its payload flipped is rejected for its CRC. -/
def Obligations.PayloadBitFlipIsRejected : Prop :=
  ∀ (s : State) (c i k : Nat) (f g : PageFields), f.wellFormed = true → i < f.payload.length → k < 8 →
    g = { f with payload := f.payload.set i (f.payload.getD i 0 ^^^ (1#8 <<< k)) } →
    s.holdsAt c (g.front ++ leBytes 4 f.crc.toNat ++ g.back) →
    (pageCheck s c).2 = .rejected .crc

/-- R81, R82: no command's outcome depends on what lies past the end of the byte source. -/
def Obligations.NoByteAtOrPastTheEndIsRead : Prop :=
  ∀ (i : Instr) (s t : State) (m : Memory), s.src.disturb = none →
    (∀ a, a < s.src.len.toNat → m.read a = s.src.mem.read a) → exec i s = .next t →
    exec i { s with src := { s.src with mem := m } } = .next { t with src := { t.src with mem := m } }

/-! ## Packet boundaries -/

/-- R160 (§8 property 1 of the source): packets laid out as segments come back with their lengths and offsets, all complete,
the first marked by the continuation flag. -/
def Obligations.LacingRecoversPackets : Prop :=
  ∀ (lens : List Nat) (flags : Byte),
    lacing (lens.flatMap packetSegs) flags = (markFirst flags (packetFrags 0 lens), false)

/-- R160, R162: how many entries there are, that they lie one after another and cover the payload, and that exactly a
trailing 255 leaves the last one open. -/
def Obligations.LacingShape : Prop :=
  ∀ (segs : List Byte) (flags : Byte), ∃ pk last, lacing segs flags = (pk, last) ∧
    pk.length ≤ segs.length ∧ (pk = [] ↔ segs = []) ∧ (pk.map Frag.length).sum = segSum segs ∧
    (∀ j, j < pk.length → (pk.map Frag.offset).getD j 0 = ((pk.map Frag.length).take j).sum) ∧
    (last = true ↔ segs.getLast? = some 255) ∧
    (∀ j, j < pk.length → (pk.map Frag.complete).getD j false = !(last && j + 1 == pk.length)) ∧
    (∀ j, j < pk.length → (pk.map Frag.contFragment).getD j false = (j == 0 && flags.getLsbD 0))

/-! ## Page commands -/

/-- R165: PAGE_CHECK of a page at POS: the command completes with OK, every page register and table reports the page, POS
moves past it, and nothing else changes. -/
def Obligations.PageCheckReportsThePage : Prop :=
  ∀ (s : State) (f : PageFields), s.status.dead = false → f.wellFormed = true → s.holdsAt s.pos.toNat f.image →
    (f.segs = [] → s.ctrl.nseg0Accept = true) →
    ∃ (pk : List Frag) (last : Bool) (t : State), lacing f.segs f.flags = (pk, last) ∧ exec .pageCheck s = .next t ∧
      t.pos.toNat = s.pos.toNat + f.image.length ∧
      t.pg.off = s.pos ∧ t.pg.len.toNat = 27 + f.segs.length + f.payload.length ∧
      t.pg.version = 0 ∧ t.pg.flags = f.flags ∧ t.pg.nseg.toNat = f.segs.length ∧ t.pg.gran = f.gran ∧
      t.pg.serial = f.serial ∧ t.pg.seq = f.seq ∧ t.pg.payloadLen.toNat = f.payload.length ∧
      (∀ i, t.pg.segByte i = f.segs.getD i 0) ∧
      (∀ j, t.pg.pktEntry j = (pk.map Frag.entry).getD j PktEntry.zero) ∧
      t.pg.info.pktCount.toNat = pk.length ∧ t.pg.info.lastCont = last ∧
      t.pg.info.resync = s.status.lostSync ∧
      (∃ k, continuity s (f.page s.pos.toNat) = (t.slots, k) ∧ t.pg.info.seqGap = k.gap ∧ t.pg.info.granRegress = k.regress ∧
        t.pg.info.newStream = k.new ∧ t.pg.info.streamFull = k.full ∧ t.pg.info.contChecked = k.checked ∧
        t.pg.info.slot.toNat = k.slot ∧ t.pg.info.slotValid = k.slotValid) ∧
      t.crcPair = ⟨f.crc, f.crc⟩ ∧ t.rej = ⟨0, none⟩ ∧
      t.status = { s.status with result := .ok, done := true, lostSync := false } ∧
      { t with pending := s.pending, pos := s.pos, pg := s.pg, crcPair := s.crcPair, rej := s.rej,
               status := s.status, slots := s.slots } = s

/-- R165, R164: PAGE_CHECK of a candidate that is no page: POS, page registers, tables and WASTE stay; a rejection is
recorded and sets LOST_SYNC, the end of the source and a truncation are not rejections. -/
def Obligations.PageCheckWithoutAPage : Prop :=
  ∀ s : State, s.status.dead = false → ∃ t, exec .pageCheck s = .next t ∧ t.src.len = s.src.len ∧ t.src.mem = s.src.mem ∧
    (∀ r, (pageCheck (s.setRej ⟨0, none⟩) s.pos.toNat).2 = .rejected r →
      t = { s with
            src := t.src
            pending := none
            crcPair := t.crcPair
            rej := ⟨1, some r⟩
            status := { s.status with result := r.result, done := true, err := true, lostSync := true } } ∧
      (r ≠ .crc → t.crcPair = s.crcPair)) ∧
    ((pageCheck (s.setRej ⟨0, none⟩) s.pos.toNat).2 = .eoi →
      t = { s with
            src := t.src
            pending := none
            rej := ⟨0, none⟩
            status := { s.status with result := .eoi, done := true } }) ∧
    ((pageCheck (s.setRej ⟨0, none⟩) s.pos.toNat).2 = .truncated →
      t = { s with
            src := t.src
            pending := none
            rej := ⟨0, none⟩
            status := { s.status with result := .truncated, done := true, err := true } })

/-- R166, R178: PAGE_NEXT's loop, pass by pass, without any bound on its passes; the window restarts at every rejection. -/
def Obligations.PageNextLoopIsR166 : Prop :=
  (∀ s : State, s.status.dead = false → exec .pageNext s = .next (nextFrom (s.setRej ⟨0, none⟩) s.pos.toNat)) ∧
  ∀ (s : State) (c : Nat), ∃ t v, pageCheck s c = (t, v) ∧
    match v with
    | .ok p       => nextFrom s c = complete .ok (seekTo (c + p.len) (acceptPage p t))
    | .eoi        => nextFrom s c = complete .eoi s
    | .truncated  => nextFrom s c = complete .truncated (seekTo c s)
    | .rejected r => ∃ u, u = rejectCandidate r t ∧
      match scan u c with
      | .found o     => c < o ∧ nextFrom s c = nextFrom (addWaste (o - c) u) o
      | .endOfInput  => nextFrom s c = complete .eoi (seekTo s.srcLen (addWaste (s.srcLen - c) u))
      | .windowEmpty => nextFrom s c = complete .corrupt
          { u with
            waste := u.waste + BitVec.ofNat 64 (8 * (65536 + 1))
            pos := BitVec.ofNat 64 (c + 1 + 65536)
            status := { u.status with dead := true } }

/-- R167: the scan answers the first candidate of its window that holds the capture pattern; without one it tells an empty
window from the end of the source. -/
def Obligations.ScanFindsTheFirstCapture : Prop :=
  ∀ (s : State) (c : Nat), ∃ cand : Nat → Prop,
    (∀ o, cand o ↔ (c + 1 ≤ o ∧ o ≤ c + 65536 ∧ o + 4 ≤ s.srcLen ∧
      s.memRead .scan o 4 = [0x4F, 0x67, 0x67, 0x53])) ∧
    (∀ o, scan s c = .found o ↔ (cand o ∧ ∀ x, x < o → ¬ cand x)) ∧
    (scan s c = .endOfInput ↔ ((∀ x, ¬ cand x) ∧ s.srcLen < c + 1 + 65536 + 3)) ∧
    (scan s c = .windowEmpty ↔ ((∀ x, ¬ cand x) ∧ c + 1 + 65536 + 3 ≤ s.srcLen))

/-- R166, R168, R175 (§8 property 3 of the source): PAGE_NEXT passes over at most 64 KiB of bytes that hold no capture
pattern, counts them as waste, and reports the page that follows, flagged as recovered if any were passed. -/
def Obligations.PageNextRecoversAfterGarbage : Prop :=
  ∀ (s : State) (f : PageFields) (g : Nat), s.status.dead = false → f.wellFormed = true →
    s.holdsAt (s.pos.toNat + g) f.image → (f.segs = [] → s.ctrl.nseg0Accept = true) → g ≤ 65536 →
    (∀ x, x < g → ¬ s.holdsAt (s.pos.toNat + x) capturePattern) →
    ∃ (pk : List Frag) (last : Bool) (t : State), lacing f.segs f.flags = (pk, last) ∧ exec .pageNext s = .next t ∧
      t.pos.toNat = s.pos.toNat + g + f.image.length ∧
      t.pg.off.toNat = s.pos.toNat + g ∧ t.pg.len.toNat = 27 + f.segs.length + f.payload.length ∧
      t.pg.version = 0 ∧ t.pg.flags = f.flags ∧ t.pg.nseg.toNat = f.segs.length ∧ t.pg.gran = f.gran ∧
      t.pg.serial = f.serial ∧ t.pg.seq = f.seq ∧ t.pg.payloadLen.toNat = f.payload.length ∧
      (∀ i, t.pg.segByte i = f.segs.getD i 0) ∧
      (∀ j, t.pg.pktEntry j = (pk.map Frag.entry).getD j PktEntry.zero) ∧
      t.pg.info.pktCount.toNat = pk.length ∧ t.pg.info.lastCont = last ∧
      t.pg.info.resync = (s.status.lostSync || decide (0 < g)) ∧
      (∃ k, continuity s (f.page (s.pos.toNat + g)) = (t.slots, k) ∧ t.pg.info.seqGap = k.gap ∧ t.pg.info.granRegress = k.regress ∧
        t.pg.info.newStream = k.new ∧ t.pg.info.streamFull = k.full ∧ t.pg.info.contChecked = k.checked ∧
        t.pg.info.slot.toNat = k.slot ∧ t.pg.info.slotValid = k.slotValid) ∧
      t.crcPair = ⟨f.crc, f.crc⟩ ∧
      t.rej = (if g = 0 then ⟨0, none⟩ else ⟨1, some .capture⟩) ∧
      t.waste = s.waste + BitVec.ofNat 64 (8 * g) ∧
      t.status = { s.status with result := .ok, done := true, lostSync := false } ∧
      { t with pending := s.pending, pos := s.pos, pg := s.pg, crcPair := s.crcPair, rej := s.rej,
               waste := s.waste, status := s.status, slots := s.slots } = s

/-- R168: over a whole PAGE_NEXT, WASTE grows by eight times the bytes from POS to where the command ends: the accepted page,
or the new POS. PAGE_CHECK and every other command that is not a clear or a reset leave it alone. -/
def Obligations.WasteCountsBytesPassedOver : Prop :=
  (∀ s t : State, exec .pageNext s = .next t → ∃ e : Nat,
    e = (if t.status.result = .ok then t.pg.off.toNat else t.pos.toNat) ∧
    (s.srcLen < 2 ^ 64 → t.waste = s.waste + BitVec.ofNat 64 (8 * (e - s.pos.toNat)))) ∧
  ∀ (i : Instr) (s t : State), i ≠ .pageNext → i ≠ .wasteClear → i ≠ .softReset → exec i s = .next t → t.waste = s.waste

/-- R179: POS after each page command. -/
def Obligations.PosAfterPageCommands : Prop :=
  (∀ (i : Instr) (s t : State), i = .pageCheck ∨ i = .pageNext → s.status.dead = true → exec i s = .next t →
    t.status.result = .eoi ∧ t.pos = s.pos) ∧
  ∀ (s t : State), s.status.dead = false → s.srcLen < 2 ^ 64 →
    (exec .pageCheck s = .next t →
      (t.status.result = .ok → t.pos.toNat = t.pg.off.toNat + t.pg.len.toNat) ∧
      (t.status.result ≠ .ok → t.pos = s.pos)) ∧
    (exec .pageNext s = .next t →
      (t.status.result = .ok → t.pos.toNat = t.pg.off.toNat + t.pg.len.toNat) ∧
      (t.status.result = .eoi → s.srcLen ≤ s.pos.toNat → t.pos = s.pos) ∧
      (t.status.result = .eoi → s.pos.toNat < s.srcLen → t.pos.toNat = s.srcLen) ∧
      (t.status.result = .truncated → ∃ u c, t.pos.toNat = c ∧ u.src = s.src ∧ u.ctrl = s.ctrl ∧
        (pageCheck u c).2 = .truncated) ∧
      (t.status.result = .corrupt → ∃ u c r, t.pos.toNat = c + 1 + 65536 ∧ u.src = s.src ∧ u.ctrl = s.ctrl ∧
        (pageCheck u c).2 = .rejected r ∧ scan u c = .windowEmpty))

/-- R169: CORRUPT comes with DEAD and the first offset not examined in POS, after a window without a capture pattern; while
`DEAD = 1` both page commands complete at once with EOI and change nothing else; a POS write lifts it. -/
def Obligations.CorruptStreamLatches : Prop :=
  (∀ s t : State, s.status.dead = false → exec .pageNext s = .next t →
    (t.status.result = .corrupt ↔ t.status.dead = true) ∧
    (t.status.result = .corrupt → s.src.disturb = none → ∃ c, s.pos.toNat ≤ c ∧ t.pos.toNat = c + 1 + 65536 ∧
      ∀ o, c + 1 ≤ o → o ≤ c + 65536 → ¬ s.holdsAt o capturePattern)) ∧
  (∀ (i : Instr) (s : State), i = .pageCheck ∨ i = .pageNext → s.status.dead = true →
    ∃ t, exec i s = .next t ∧ t.src.len = s.src.len ∧ t.src.mem = s.src.mem ∧
      t = { s with src := t.src, pending := none, status := { s.status with result := .eoi, done := true } }) ∧
  ∀ (s : State) (v : Word), s.busy = false →
    (writeTarget v s (.reg .posLo)).status.dead = false ∧ (writeTarget v s (.reg .posHi)).status.dead = false

/-- R232, R53: page registers and tables change only on OK, and only by a page command, STREAMS_CLEAR or SOFT_RESET. -/
def Obligations.PageStateChangesOnlyOnOk : Prop :=
  ∀ (i : Instr) (s t : State), exec i s = .next t →
    (t.pg ≠ s.pg → t.status.result = .ok ∧ (i = .pageCheck ∨ i = .pageNext ∨ i = .softReset)) ∧
    (t.slots ≠ s.slots → t.status.result = .ok ∧ (i = .pageCheck ∨ i = .pageNext ∨ i = .streamsClear ∨ i = .softReset))

/-- What every page command leaves alone, whatever its result: CTRL, CRC, ARG_ADDR, ARG_LEN, OVERRUN, the parameters, the
byte source and the host (R39, R41, R82, R232). -/
def Obligations.PageCommandsFrame : Prop :=
  ∀ (i : Instr) (s t : State), i = .pageCheck ∨ i = .pageNext → exec i s = .next t →
    t.ctrl = s.ctrl ∧ t.crc = s.crc ∧ t.argAddr = s.argAddr ∧ t.argLen = s.argLen ∧
    t.status.overrun = s.status.overrun ∧ t.cfg = s.cfg ∧ t.host = s.host ∧
    t.src.len = s.src.len ∧ t.src.mem = s.src.mem ∧ (i = .pageCheck → t.waste = s.waste ∧ t.status.dead = s.status.dead) ∧
    (∀ g ∈ [Target.reg .id, .reg .version, .reg .ctrl, .reg .cmd, .reg .crc, .reg .srcLenLo, .reg .srcLenHi,
      .reg .argAddrLo, .reg .argAddrHi, .reg .argLen], peek t g = peek s g)

/-- R58, R175: RESYNC marks the first page accepted since a rejection, in this command or an earlier one, and no page after
it. -/
def Obligations.ResyncMarksTheFirstPageRecovered : Prop :=
  ∀ (i : Instr) (s t : State), exec i s = .next t →
    (i = .pageCheck ∨ i = .pageNext → s.status.dead = false →
      (t.status.result = .ok →
        t.pg.info.resync = (s.status.lostSync || decide (t.rej.count ≠ 0)) ∧ t.status.lostSync = false) ∧
      (t.status.result ≠ .ok → t.status.lostSync = (s.status.lostSync || decide (t.rej.count ≠ 0)))) ∧
    (i ≠ .pageCheck → i ≠ .pageNext → i ≠ .softReset → t.status.lostSync = s.status.lostSync)

/-! ## Continuity -/

/-- R170, R171: a page of a tracked serial: the gap modulo 2^32, the regression as signed numbers with −1 exempt, and the
slot's update; no other slot changes. -/
def Obligations.ContinuityOfATrackedSerial : Prop :=
  ∀ (s : State) (p : Page) (i : Fin 32), slotsConsistent s.cfg.streamSlots s.slots → s.ctrl.contEn = true →
    s.slots[i].valid = true → s.slots[i].serial = p.serial →
    ∃ slots' k, continuity s p = (slots', k) ∧
      k.checked = true ∧ k.new = false ∧ k.full = false ∧ k.slot = i.val ∧ k.slotValid = true ∧
      (k.gap = true ↔ p.seq.toNat ≠ (s.slots[i].lastSeq.toNat + 1) % 2 ^ 32) ∧
      (k.regress = true ↔ p.gran ≠ 0xFFFFFFFFFFFFFFFF#64 ∧ s.slots[i].hasGran = true ∧
        p.gran.toInt < s.slots[i].lastGran.toInt) ∧
      slots'[i].serial = p.serial ∧ slots'[i].valid = true ∧ slots'[i].lastSeq = p.seq ∧
      slots'[i].lastGran = (if p.gran = 0xFFFFFFFFFFFFFFFF#64 then s.slots[i].lastGran else p.gran) ∧
      slots'[i].hasGran = (s.slots[i].hasGran || decide (p.gran ≠ 0xFFFFFFFFFFFFFFFF#64)) ∧
      slots'[i].eosSeen = (s.slots[i].eosSeen || p.flags.getLsbD 2) ∧
      ∀ j : Fin 32, j ≠ i → slots'[j] = s.slots[j]

/-- R172: a page of an untracked serial takes the lowest-numbered invalid slot; no other slot changes. -/
def Obligations.ContinuityOfANewSerial : Prop :=
  ∀ (s : State) (p : Page) (j : Fin 32), s.ctrl.contEn = true →
    (∀ i : Fin 32, i.val < s.cfg.streamSlots → s.slots[i].valid = true → s.slots[i].serial ≠ p.serial) →
    j.val < s.cfg.streamSlots → s.slots[j].valid = false → (∀ i : Fin 32, i < j → s.slots[i].valid = true) →
    ∃ slots', continuity s p = (slots', ⟨false, false, true, false, true, j.val, true⟩) ∧
      slots'[j] = ⟨p.serial, p.seq, if p.gran = 0xFFFFFFFFFFFFFFFF#64 then 0 else p.gran, true,
        decide (p.gran ≠ 0xFFFFFFFFFFFFFFFF#64), p.flags.getLsbD 2⟩ ∧
      ∀ i : Fin 32, i ≠ j → slots'[i] = s.slots[i]

/-- R173, R170: an accepted page that gets no slot, under either page command. With the checks enabled, one of an untracked
serial with every slot valid writes nothing to the stream table and reports STREAM_FULL, whether it stands at POS or was found
past it, and a full table does not keep a page from being accepted; with `CONT_EN = 0` the table is untouched, whatever is
accepted, and every continuity field is 0, CONT_CHECKED with them. -/
def Obligations.ContinuityWithoutASlot : Prop :=
  (∀ (s : State) (p : Page), s.ctrl.contEn = true →
    (∀ j : Fin 32, j.val < s.cfg.streamSlots → s.slots[j].valid = true ∧ s.slots[j].serial ≠ p.serial) →
    continuity s p = (s.slots, ⟨false, false, false, true, true, 0, false⟩)) ∧
  (∀ (i : Instr) (s t : State) (p : Page), i = .pageCheck ∨ i = .pageNext → s.status.dead = false →
    pageCheck (s.setRej ⟨0, none⟩) s.pos.toNat = (t, .ok p) →
    ∃ u, exec i s = .next u ∧ u.status.result = .ok ∧ u.pg.serial = p.serial) ∧
  (∀ (i : Instr) (s u : State), i = .pageCheck ∨ i = .pageNext → s.ctrl.contEn = true → exec i s = .next u →
    u.status.result = .ok →
    (∀ j : Fin 32, j.val < s.cfg.streamSlots → s.slots[j].valid = true ∧ s.slots[j].serial ≠ u.pg.serial) →
    u.slots = s.slots ∧
      u.pg.info.streamFull = true ∧ u.pg.info.seqGap = false ∧ u.pg.info.granRegress = false ∧
      u.pg.info.newStream = false ∧ u.pg.info.slot = 0 ∧ u.pg.info.slotValid = false ∧ u.pg.info.contChecked = true) ∧
  (∀ (s : State) (p : Page), s.ctrl.contEn = false →
    continuity s p = (s.slots, ⟨false, false, false, false, false, 0, false⟩)) ∧
  ∀ (i : Instr) (s : State), i = .pageCheck ∨ i = .pageNext → s.ctrl.contEn = false →
    ∃ u, exec i s = .next u ∧ u.slots = s.slots ∧
      (u.status.result = .ok →
        u.pg.info.streamFull = false ∧ u.pg.info.seqGap = false ∧ u.pg.info.granRegress = false ∧
        u.pg.info.newStream = false ∧ u.pg.info.slot = 0 ∧ u.pg.info.slotValid = false ∧ u.pg.info.contChecked = false)

/-! ## The byte source -/

/-- R82: nothing the block does writes the byte source; it changes by a turn of what feeds it alone. -/
def Obligations.TheBlockNeverWritesTheSource : Prop :=
  (∀ (i : Instr) (s t : State), exec i s = .next t → t.src.mem = s.src.mem ∧ t.src.len = s.src.len) ∧
  ∀ s t : State, step s = .next t → (t.src.mem ≠ s.src.mem ∨ t.src.len ≠ s.src.len) →
    ∃ len cells rest, s.host.agenda = .attach len cells :: rest

/-- R84: a source attached between commands is what the engine sees; one changed while `BUSY = 1` leaves the command a length
between the old and the new, and draws for bytes; a further change widens the range to every length since acceptance and
takes new draws; attaching what is attached changes nothing the engine sees; and the draws end with the command or a reset.
The attach turn (log entry 1), the numbering of the draws and what a further or an equal attachment does (log entry 3), and
what its cells stand for, of two cells for one offset the later and 0 for an offset without one (log entry 4), are the
model's choice. -/
def Obligations.SourceChangesWhileBusyAreDraws : Prop :=
  (∀ (s t : State) (len : DWord) (cells : List Host.Cell) (rest : List Turn), s.host.agenda = .attach len cells :: rest →
    step s = .next t →
    t.src.len = len ∧
    (∀ a, a < len.toNat → t.src.mem.read a = ((cells.reverse.find? (·.1 == a)).map (·.2)).getD 0) ∧
    (s.busy = false → s.src.disturb = none →
      t.srcLen = len.toNat ∧ ∀ site start a, t.src.byte site start a = t.src.mem.read a) ∧
    (s.busy = true → t.src.len = s.src.len → t.src.mem = s.src.mem →
      t.srcLen = s.srcLen ∧ ∀ site start a, t.src.byte site start a = s.src.byte site start a) ∧
    (s.busy = true → ¬ (t.src.len = s.src.len ∧ t.src.mem = s.src.mem) →
      ∃ lo hi,
        (lo, hi) = (match s.src.disturb with
          | none   => (s.src.len.toNat, s.src.len.toNat)
          | some d => (d.lo, d.hi)) ∧
        t.src.disturb = some ⟨s.host.draws, min lo len.toNat, max hi len.toNat⟩ ∧
        min lo len.toNat ≤ t.srcLen ∧ t.srcLen ≤ max hi len.toNat ∧
        ∀ site start a, t.src.byte site start a = Config.freeByte s.host.draws site start a)) ∧
  (∀ (i : Instr) (s t : State), exec i s = .next t →
    t.srcLen = s.src.len.toNat ∧ ∀ site start a, t.src.byte site start a = s.src.mem.read a) ∧
  ∀ s : State, (resetInput s).srcLen = s.src.len.toNat ∧
    ∀ site start a, (resetInput s).src.byte site start a = s.src.mem.read a

/-! ## The invariant -/

/-- The invariant holds after reset (R61, R260). -/
def Obligations.InvariantHoldsAtReset : Prop := State.reset.Inv

/-- Every step keeps the invariant, from every state that meets it (R61). -/
def Obligations.EveryStepKeepsTheInvariant : Prop :=
  ∀ s t : State, s.Inv → step s = .next t → t.Inv
end

