-- ==== Sys2Proof/Laws/Crc.lean ====
section
/-! SUPPORT. The CRC update is linear over XOR and loses nothing of its state. -/

namespace Sys2Proof.Machine

theorem crcShift_xor (a b : Word) : crcShift (a ^^^ b) = crcShift a ^^^ crcShift b := by
  have hd : (a ^^^ b) <<< 1 = (a <<< 1) ^^^ (b <<< 1) := BitVec.shiftLeft_xor_distrib a b 1
  unfold crcShift
  rw [BitVec.msb_xor, hd]
  generalize a <<< 1 = x
  generalize b <<< 1 = y
  have hs : ∀ p : Word, p ^^^ p = 0 := fun p => by simp
  cases a.msb <;> cases b.msb
  · simp
  · simp [BitVec.xor_assoc]
  · simp [BitVec.xor_assoc, BitVec.xor_comm y crcPoly]
  · have : x ^^^ crcPoly ^^^ (y ^^^ crcPoly) = x ^^^ y ^^^ (crcPoly ^^^ crcPoly) := by
      rw [BitVec.xor_assoc, ← BitVec.xor_assoc crcPoly, BitVec.xor_comm crcPoly y, BitVec.xor_assoc y,
        ← BitVec.xor_assoc]
    simp [this]

theorem crcShifts_xor (n : Nat) : ∀ a b : Word, crcShifts n (a ^^^ b) = crcShifts n a ^^^ crcShifts n b := by
  induction n with
  | zero => intro a b; rfl
  | succ n ih => intro a b; simp only [crcShifts, crcShift_xor, ih]

/-- Bit 0 of the polynomial keeps a shifted-out bit from being lost. -/
theorem crcShift_eq_zero {a : Word} (h : crcShift a = 0) : a = 0 := by
  have h0 : ∀ i, (crcShift a).getLsbD i = false := fun i => by rw [h]; simp
  cases hm : a.msb with
  | true =>
    have := h0 0
    simp [crcShift, hm, crcPoly] at this
  | false =>
    have hm' : a.getLsbD 31 = false := by simpa [BitVec.msb_eq_getLsbD_last] using hm
    apply BitVec.eq_of_getLsbD_eq
    intro i hi
    by_cases h31 : i = 31
    · subst h31; simpa using hm'
    · have := h0 (i + 1)
      simp only [crcShift, hm, Bool.false_eq_true, if_false, BitVec.getLsbD_shiftLeft] at this
      have hlt : i + 1 < 32 := by omega
      simpa [hlt] using this

theorem crcShifts_eq_zero : ∀ {n : Nat} {a : Word}, crcShifts n a = 0 → a = 0
  | 0, _, h => h
  | _ + 1, _, h => crcShift_eq_zero (crcShifts_eq_zero h)

theorem crcUpdate_xor (a b : Word) (x y : Byte) : crcUpdate (a ^^^ b) (x ^^^ y) = crcUpdate a x ^^^ crcUpdate b y := by
  have : a ^^^ b ^^^ ((x ^^^ y).setWidth 32 <<< 24) =
      (a ^^^ (x.setWidth 32 <<< 24)) ^^^ (b ^^^ (y.setWidth 32 <<< 24)) := by
    rw [BitVec.setWidth_xor, BitVec.shiftLeft_xor_distrib]
    generalize x.setWidth 32 <<< 24 = p
    generalize y.setWidth 32 <<< 24 = q
    rw [BitVec.xor_assoc, ← BitVec.xor_assoc b, BitVec.xor_comm b p, BitVec.xor_assoc p, ← BitVec.xor_assoc]
  unfold crcUpdate
  rw [this, crcShifts_xor]

theorem xor_eq_zero_iff {a b : Word} : a ^^^ b = 0 ↔ a = b := by simp

/-- Two states that a byte brings together were one. -/
theorem crcUpdate_state_injective {a b : Word} {x : Byte} (h : crcUpdate a x = crcUpdate b x) : a = b := by
  rw [← xor_eq_zero_iff, ← crcUpdate_xor] at h
  simp only [BitVec.xor_self] at h
  have := crcShifts_eq_zero (n := 8) h
  simpa using this

/-- Two bytes that bring one state to the same state are one. -/
theorem crcUpdate_byte_injective {a : Word} {x y : Byte} (h : crcUpdate a x = crcUpdate a y) : x = y := by
  rw [← xor_eq_zero_iff, ← crcUpdate_xor] at h
  simp only [BitVec.xor_self] at h
  have hz := crcShifts_eq_zero (n := 8) h
  simp only [BitVec.zero_xor] at hz
  have : ∀ i, i < 8 → (x ^^^ y).getLsbD i = false := by
    intro i hi
    have hb : ((x ^^^ y).setWidth 32 <<< 24).getLsbD (i + 24) = false := by
      have : (0#32).getLsbD (i + 24) = false := by simp
      simpa using (congrArg (fun w : Word => w.getLsbD (i + 24)) hz).trans this
    have h1 : i + 24 < 32 := by omega
    have h2 : i < 32 := by omega
    simpa [BitVec.getLsbD_shiftLeft, BitVec.getLsbD_setWidth, h1, h2] using hb
  have hx : x ^^^ y = 0 := BitVec.eq_of_getLsbD_eq (fun i hi => by rw [this i hi]; simp)
  simpa using hx

theorem crcBytes_append (c : Word) (xs ys : List Byte) : crcBytes c (xs ++ ys) = crcBytes (crcBytes c xs) ys := by
  induction xs generalizing c with
  | nil => rfl
  | cons x xs ih => exact ih _

theorem crcBytes_state_injective : ∀ {xs : List Byte} {a b : Word}, crcBytes a xs = crcBytes b xs → a = b
  | [], _, _, h => h
  | _ :: _, _, _, h => crcUpdate_state_injective (crcBytes_state_injective h)

end Sys2Proof.Machine
end

