-- ==== Sys2Proof/Laws/State.lean ====
section
/-! SUPPORT. What each one-field update of State leaves in each field. -/

namespace Sys2Proof.Machine

variable (s : State)

section
variable (v : Source)
@[simp] theorem State.setSrc_cfg : (s.setSrc v).cfg = s.cfg := rfl
@[simp] theorem State.setSrc_src : (s.setSrc v).src = v := rfl
@[simp] theorem State.setSrc_host : (s.setSrc v).host = s.host := rfl
@[simp] theorem State.setSrc_ctrl : (s.setSrc v).ctrl = s.ctrl := rfl
@[simp] theorem State.setSrc_status : (s.setSrc v).status = s.status := rfl
@[simp] theorem State.setSrc_pending : (s.setSrc v).pending = s.pending := rfl
@[simp] theorem State.setSrc_crc : (s.setSrc v).crc = s.crc := rfl
@[simp] theorem State.setSrc_pos : (s.setSrc v).pos = s.pos := rfl
@[simp] theorem State.setSrc_argAddr : (s.setSrc v).argAddr = s.argAddr := rfl
@[simp] theorem State.setSrc_argLen : (s.setSrc v).argLen = s.argLen := rfl
@[simp] theorem State.setSrc_waste : (s.setSrc v).waste = s.waste := rfl
@[simp] theorem State.setSrc_rej : (s.setSrc v).rej = s.rej := rfl
@[simp] theorem State.setSrc_crcPair : (s.setSrc v).crcPair = s.crcPair := rfl
@[simp] theorem State.setSrc_pg : (s.setSrc v).pg = s.pg := rfl
@[simp] theorem State.setSrc_slots : (s.setSrc v).slots = s.slots := rfl
@[simp] theorem State.setSrc_busy : (s.setSrc v).busy = s.busy := rfl
end

section
variable (v : HostSide)
@[simp] theorem State.setHost_cfg : (s.setHost v).cfg = s.cfg := rfl
@[simp] theorem State.setHost_src : (s.setHost v).src = s.src := rfl
@[simp] theorem State.setHost_host : (s.setHost v).host = v := rfl
@[simp] theorem State.setHost_ctrl : (s.setHost v).ctrl = s.ctrl := rfl
@[simp] theorem State.setHost_status : (s.setHost v).status = s.status := rfl
@[simp] theorem State.setHost_pending : (s.setHost v).pending = s.pending := rfl
@[simp] theorem State.setHost_crc : (s.setHost v).crc = s.crc := rfl
@[simp] theorem State.setHost_pos : (s.setHost v).pos = s.pos := rfl
@[simp] theorem State.setHost_argAddr : (s.setHost v).argAddr = s.argAddr := rfl
@[simp] theorem State.setHost_argLen : (s.setHost v).argLen = s.argLen := rfl
@[simp] theorem State.setHost_waste : (s.setHost v).waste = s.waste := rfl
@[simp] theorem State.setHost_rej : (s.setHost v).rej = s.rej := rfl
@[simp] theorem State.setHost_crcPair : (s.setHost v).crcPair = s.crcPair := rfl
@[simp] theorem State.setHost_pg : (s.setHost v).pg = s.pg := rfl
@[simp] theorem State.setHost_slots : (s.setHost v).slots = s.slots := rfl
@[simp] theorem State.setHost_busy : (s.setHost v).busy = s.busy := rfl
end

section
variable (v : Ctrl)
@[simp] theorem State.setCtrl_cfg : (s.setCtrl v).cfg = s.cfg := rfl
@[simp] theorem State.setCtrl_src : (s.setCtrl v).src = s.src := rfl
@[simp] theorem State.setCtrl_host : (s.setCtrl v).host = s.host := rfl
@[simp] theorem State.setCtrl_ctrl : (s.setCtrl v).ctrl = v := rfl
@[simp] theorem State.setCtrl_status : (s.setCtrl v).status = s.status := rfl
@[simp] theorem State.setCtrl_pending : (s.setCtrl v).pending = s.pending := rfl
@[simp] theorem State.setCtrl_crc : (s.setCtrl v).crc = s.crc := rfl
@[simp] theorem State.setCtrl_pos : (s.setCtrl v).pos = s.pos := rfl
@[simp] theorem State.setCtrl_argAddr : (s.setCtrl v).argAddr = s.argAddr := rfl
@[simp] theorem State.setCtrl_argLen : (s.setCtrl v).argLen = s.argLen := rfl
@[simp] theorem State.setCtrl_waste : (s.setCtrl v).waste = s.waste := rfl
@[simp] theorem State.setCtrl_rej : (s.setCtrl v).rej = s.rej := rfl
@[simp] theorem State.setCtrl_crcPair : (s.setCtrl v).crcPair = s.crcPair := rfl
@[simp] theorem State.setCtrl_pg : (s.setCtrl v).pg = s.pg := rfl
@[simp] theorem State.setCtrl_slots : (s.setCtrl v).slots = s.slots := rfl
@[simp] theorem State.setCtrl_busy : (s.setCtrl v).busy = s.busy := rfl
end

section
variable (v : Status)
@[simp] theorem State.setStatus_cfg : (s.setStatus v).cfg = s.cfg := rfl
@[simp] theorem State.setStatus_src : (s.setStatus v).src = s.src := rfl
@[simp] theorem State.setStatus_host : (s.setStatus v).host = s.host := rfl
@[simp] theorem State.setStatus_ctrl : (s.setStatus v).ctrl = s.ctrl := rfl
@[simp] theorem State.setStatus_status : (s.setStatus v).status = v := rfl
@[simp] theorem State.setStatus_pending : (s.setStatus v).pending = s.pending := rfl
@[simp] theorem State.setStatus_crc : (s.setStatus v).crc = s.crc := rfl
@[simp] theorem State.setStatus_pos : (s.setStatus v).pos = s.pos := rfl
@[simp] theorem State.setStatus_argAddr : (s.setStatus v).argAddr = s.argAddr := rfl
@[simp] theorem State.setStatus_argLen : (s.setStatus v).argLen = s.argLen := rfl
@[simp] theorem State.setStatus_waste : (s.setStatus v).waste = s.waste := rfl
@[simp] theorem State.setStatus_rej : (s.setStatus v).rej = s.rej := rfl
@[simp] theorem State.setStatus_crcPair : (s.setStatus v).crcPair = s.crcPair := rfl
@[simp] theorem State.setStatus_pg : (s.setStatus v).pg = s.pg := rfl
@[simp] theorem State.setStatus_slots : (s.setStatus v).slots = s.slots := rfl
@[simp] theorem State.setStatus_busy : (s.setStatus v).busy = s.busy := rfl
end

section
variable (v : Option Word)
@[simp] theorem State.setPending_cfg : (s.setPending v).cfg = s.cfg := rfl
@[simp] theorem State.setPending_src : (s.setPending v).src = s.src := rfl
@[simp] theorem State.setPending_host : (s.setPending v).host = s.host := rfl
@[simp] theorem State.setPending_ctrl : (s.setPending v).ctrl = s.ctrl := rfl
@[simp] theorem State.setPending_status : (s.setPending v).status = s.status := rfl
@[simp] theorem State.setPending_pending : (s.setPending v).pending = v := rfl
@[simp] theorem State.setPending_crc : (s.setPending v).crc = s.crc := rfl
@[simp] theorem State.setPending_pos : (s.setPending v).pos = s.pos := rfl
@[simp] theorem State.setPending_argAddr : (s.setPending v).argAddr = s.argAddr := rfl
@[simp] theorem State.setPending_argLen : (s.setPending v).argLen = s.argLen := rfl
@[simp] theorem State.setPending_waste : (s.setPending v).waste = s.waste := rfl
@[simp] theorem State.setPending_rej : (s.setPending v).rej = s.rej := rfl
@[simp] theorem State.setPending_crcPair : (s.setPending v).crcPair = s.crcPair := rfl
@[simp] theorem State.setPending_pg : (s.setPending v).pg = s.pg := rfl
@[simp] theorem State.setPending_slots : (s.setPending v).slots = s.slots := rfl
end

section
variable (v : Word)
@[simp] theorem State.setCrc_cfg : (s.setCrc v).cfg = s.cfg := rfl
@[simp] theorem State.setCrc_src : (s.setCrc v).src = s.src := rfl
@[simp] theorem State.setCrc_host : (s.setCrc v).host = s.host := rfl
@[simp] theorem State.setCrc_ctrl : (s.setCrc v).ctrl = s.ctrl := rfl
@[simp] theorem State.setCrc_status : (s.setCrc v).status = s.status := rfl
@[simp] theorem State.setCrc_pending : (s.setCrc v).pending = s.pending := rfl
@[simp] theorem State.setCrc_crc : (s.setCrc v).crc = v := rfl
@[simp] theorem State.setCrc_pos : (s.setCrc v).pos = s.pos := rfl
@[simp] theorem State.setCrc_argAddr : (s.setCrc v).argAddr = s.argAddr := rfl
@[simp] theorem State.setCrc_argLen : (s.setCrc v).argLen = s.argLen := rfl
@[simp] theorem State.setCrc_waste : (s.setCrc v).waste = s.waste := rfl
@[simp] theorem State.setCrc_rej : (s.setCrc v).rej = s.rej := rfl
@[simp] theorem State.setCrc_crcPair : (s.setCrc v).crcPair = s.crcPair := rfl
@[simp] theorem State.setCrc_pg : (s.setCrc v).pg = s.pg := rfl
@[simp] theorem State.setCrc_slots : (s.setCrc v).slots = s.slots := rfl
@[simp] theorem State.setCrc_busy : (s.setCrc v).busy = s.busy := rfl
end

section
variable (v : DWord)
@[simp] theorem State.setPos_cfg : (s.setPos v).cfg = s.cfg := rfl
@[simp] theorem State.setPos_src : (s.setPos v).src = s.src := rfl
@[simp] theorem State.setPos_host : (s.setPos v).host = s.host := rfl
@[simp] theorem State.setPos_ctrl : (s.setPos v).ctrl = s.ctrl := rfl
@[simp] theorem State.setPos_status : (s.setPos v).status = s.status := rfl
@[simp] theorem State.setPos_pending : (s.setPos v).pending = s.pending := rfl
@[simp] theorem State.setPos_crc : (s.setPos v).crc = s.crc := rfl
@[simp] theorem State.setPos_pos : (s.setPos v).pos = v := rfl
@[simp] theorem State.setPos_argAddr : (s.setPos v).argAddr = s.argAddr := rfl
@[simp] theorem State.setPos_argLen : (s.setPos v).argLen = s.argLen := rfl
@[simp] theorem State.setPos_waste : (s.setPos v).waste = s.waste := rfl
@[simp] theorem State.setPos_rej : (s.setPos v).rej = s.rej := rfl
@[simp] theorem State.setPos_crcPair : (s.setPos v).crcPair = s.crcPair := rfl
@[simp] theorem State.setPos_pg : (s.setPos v).pg = s.pg := rfl
@[simp] theorem State.setPos_slots : (s.setPos v).slots = s.slots := rfl
@[simp] theorem State.setPos_busy : (s.setPos v).busy = s.busy := rfl
end

section
variable (v : DWord)
@[simp] theorem State.setArgAddr_cfg : (s.setArgAddr v).cfg = s.cfg := rfl
@[simp] theorem State.setArgAddr_src : (s.setArgAddr v).src = s.src := rfl
@[simp] theorem State.setArgAddr_host : (s.setArgAddr v).host = s.host := rfl
@[simp] theorem State.setArgAddr_ctrl : (s.setArgAddr v).ctrl = s.ctrl := rfl
@[simp] theorem State.setArgAddr_status : (s.setArgAddr v).status = s.status := rfl
@[simp] theorem State.setArgAddr_pending : (s.setArgAddr v).pending = s.pending := rfl
@[simp] theorem State.setArgAddr_crc : (s.setArgAddr v).crc = s.crc := rfl
@[simp] theorem State.setArgAddr_pos : (s.setArgAddr v).pos = s.pos := rfl
@[simp] theorem State.setArgAddr_argAddr : (s.setArgAddr v).argAddr = v := rfl
@[simp] theorem State.setArgAddr_argLen : (s.setArgAddr v).argLen = s.argLen := rfl
@[simp] theorem State.setArgAddr_waste : (s.setArgAddr v).waste = s.waste := rfl
@[simp] theorem State.setArgAddr_rej : (s.setArgAddr v).rej = s.rej := rfl
@[simp] theorem State.setArgAddr_crcPair : (s.setArgAddr v).crcPair = s.crcPair := rfl
@[simp] theorem State.setArgAddr_pg : (s.setArgAddr v).pg = s.pg := rfl
@[simp] theorem State.setArgAddr_slots : (s.setArgAddr v).slots = s.slots := rfl
@[simp] theorem State.setArgAddr_busy : (s.setArgAddr v).busy = s.busy := rfl
end

section
variable (v : Word)
@[simp] theorem State.setArgLen_cfg : (s.setArgLen v).cfg = s.cfg := rfl
@[simp] theorem State.setArgLen_src : (s.setArgLen v).src = s.src := rfl
@[simp] theorem State.setArgLen_host : (s.setArgLen v).host = s.host := rfl
@[simp] theorem State.setArgLen_ctrl : (s.setArgLen v).ctrl = s.ctrl := rfl
@[simp] theorem State.setArgLen_status : (s.setArgLen v).status = s.status := rfl
@[simp] theorem State.setArgLen_pending : (s.setArgLen v).pending = s.pending := rfl
@[simp] theorem State.setArgLen_crc : (s.setArgLen v).crc = s.crc := rfl
@[simp] theorem State.setArgLen_pos : (s.setArgLen v).pos = s.pos := rfl
@[simp] theorem State.setArgLen_argAddr : (s.setArgLen v).argAddr = s.argAddr := rfl
@[simp] theorem State.setArgLen_argLen : (s.setArgLen v).argLen = v := rfl
@[simp] theorem State.setArgLen_waste : (s.setArgLen v).waste = s.waste := rfl
@[simp] theorem State.setArgLen_rej : (s.setArgLen v).rej = s.rej := rfl
@[simp] theorem State.setArgLen_crcPair : (s.setArgLen v).crcPair = s.crcPair := rfl
@[simp] theorem State.setArgLen_pg : (s.setArgLen v).pg = s.pg := rfl
@[simp] theorem State.setArgLen_slots : (s.setArgLen v).slots = s.slots := rfl
@[simp] theorem State.setArgLen_busy : (s.setArgLen v).busy = s.busy := rfl
end

section
variable (v : DWord)
@[simp] theorem State.setWaste_cfg : (s.setWaste v).cfg = s.cfg := rfl
@[simp] theorem State.setWaste_src : (s.setWaste v).src = s.src := rfl
@[simp] theorem State.setWaste_host : (s.setWaste v).host = s.host := rfl
@[simp] theorem State.setWaste_ctrl : (s.setWaste v).ctrl = s.ctrl := rfl
@[simp] theorem State.setWaste_status : (s.setWaste v).status = s.status := rfl
@[simp] theorem State.setWaste_pending : (s.setWaste v).pending = s.pending := rfl
@[simp] theorem State.setWaste_crc : (s.setWaste v).crc = s.crc := rfl
@[simp] theorem State.setWaste_pos : (s.setWaste v).pos = s.pos := rfl
@[simp] theorem State.setWaste_argAddr : (s.setWaste v).argAddr = s.argAddr := rfl
@[simp] theorem State.setWaste_argLen : (s.setWaste v).argLen = s.argLen := rfl
@[simp] theorem State.setWaste_waste : (s.setWaste v).waste = v := rfl
@[simp] theorem State.setWaste_rej : (s.setWaste v).rej = s.rej := rfl
@[simp] theorem State.setWaste_crcPair : (s.setWaste v).crcPair = s.crcPair := rfl
@[simp] theorem State.setWaste_pg : (s.setWaste v).pg = s.pg := rfl
@[simp] theorem State.setWaste_slots : (s.setWaste v).slots = s.slots := rfl
@[simp] theorem State.setWaste_busy : (s.setWaste v).busy = s.busy := rfl
end

section
variable (v : RejInfo)
@[simp] theorem State.setRej_cfg : (s.setRej v).cfg = s.cfg := rfl
@[simp] theorem State.setRej_src : (s.setRej v).src = s.src := rfl
@[simp] theorem State.setRej_host : (s.setRej v).host = s.host := rfl
@[simp] theorem State.setRej_ctrl : (s.setRej v).ctrl = s.ctrl := rfl
@[simp] theorem State.setRej_status : (s.setRej v).status = s.status := rfl
@[simp] theorem State.setRej_pending : (s.setRej v).pending = s.pending := rfl
@[simp] theorem State.setRej_crc : (s.setRej v).crc = s.crc := rfl
@[simp] theorem State.setRej_pos : (s.setRej v).pos = s.pos := rfl
@[simp] theorem State.setRej_argAddr : (s.setRej v).argAddr = s.argAddr := rfl
@[simp] theorem State.setRej_argLen : (s.setRej v).argLen = s.argLen := rfl
@[simp] theorem State.setRej_waste : (s.setRej v).waste = s.waste := rfl
@[simp] theorem State.setRej_rej : (s.setRej v).rej = v := rfl
@[simp] theorem State.setRej_crcPair : (s.setRej v).crcPair = s.crcPair := rfl
@[simp] theorem State.setRej_pg : (s.setRej v).pg = s.pg := rfl
@[simp] theorem State.setRej_slots : (s.setRej v).slots = s.slots := rfl
@[simp] theorem State.setRej_busy : (s.setRej v).busy = s.busy := rfl
end

section
variable (v : CrcPair)
@[simp] theorem State.setCrcPair_cfg : (s.setCrcPair v).cfg = s.cfg := rfl
@[simp] theorem State.setCrcPair_src : (s.setCrcPair v).src = s.src := rfl
@[simp] theorem State.setCrcPair_host : (s.setCrcPair v).host = s.host := rfl
@[simp] theorem State.setCrcPair_ctrl : (s.setCrcPair v).ctrl = s.ctrl := rfl
@[simp] theorem State.setCrcPair_status : (s.setCrcPair v).status = s.status := rfl
@[simp] theorem State.setCrcPair_pending : (s.setCrcPair v).pending = s.pending := rfl
@[simp] theorem State.setCrcPair_crc : (s.setCrcPair v).crc = s.crc := rfl
@[simp] theorem State.setCrcPair_pos : (s.setCrcPair v).pos = s.pos := rfl
@[simp] theorem State.setCrcPair_argAddr : (s.setCrcPair v).argAddr = s.argAddr := rfl
@[simp] theorem State.setCrcPair_argLen : (s.setCrcPair v).argLen = s.argLen := rfl
@[simp] theorem State.setCrcPair_waste : (s.setCrcPair v).waste = s.waste := rfl
@[simp] theorem State.setCrcPair_rej : (s.setCrcPair v).rej = s.rej := rfl
@[simp] theorem State.setCrcPair_crcPair : (s.setCrcPair v).crcPair = v := rfl
@[simp] theorem State.setCrcPair_pg : (s.setCrcPair v).pg = s.pg := rfl
@[simp] theorem State.setCrcPair_slots : (s.setCrcPair v).slots = s.slots := rfl
@[simp] theorem State.setCrcPair_busy : (s.setCrcPair v).busy = s.busy := rfl
end

section
variable (v : PageRegs)
@[simp] theorem State.setPg_cfg : (s.setPg v).cfg = s.cfg := rfl
@[simp] theorem State.setPg_src : (s.setPg v).src = s.src := rfl
@[simp] theorem State.setPg_host : (s.setPg v).host = s.host := rfl
@[simp] theorem State.setPg_ctrl : (s.setPg v).ctrl = s.ctrl := rfl
@[simp] theorem State.setPg_status : (s.setPg v).status = s.status := rfl
@[simp] theorem State.setPg_pending : (s.setPg v).pending = s.pending := rfl
@[simp] theorem State.setPg_crc : (s.setPg v).crc = s.crc := rfl
@[simp] theorem State.setPg_pos : (s.setPg v).pos = s.pos := rfl
@[simp] theorem State.setPg_argAddr : (s.setPg v).argAddr = s.argAddr := rfl
@[simp] theorem State.setPg_argLen : (s.setPg v).argLen = s.argLen := rfl
@[simp] theorem State.setPg_waste : (s.setPg v).waste = s.waste := rfl
@[simp] theorem State.setPg_rej : (s.setPg v).rej = s.rej := rfl
@[simp] theorem State.setPg_crcPair : (s.setPg v).crcPair = s.crcPair := rfl
@[simp] theorem State.setPg_pg : (s.setPg v).pg = v := rfl
@[simp] theorem State.setPg_slots : (s.setPg v).slots = s.slots := rfl
@[simp] theorem State.setPg_busy : (s.setPg v).busy = s.busy := rfl
end

section
variable (v : Vector Slot 32)
@[simp] theorem State.setSlots_cfg : (s.setSlots v).cfg = s.cfg := rfl
@[simp] theorem State.setSlots_src : (s.setSlots v).src = s.src := rfl
@[simp] theorem State.setSlots_host : (s.setSlots v).host = s.host := rfl
@[simp] theorem State.setSlots_ctrl : (s.setSlots v).ctrl = s.ctrl := rfl
@[simp] theorem State.setSlots_status : (s.setSlots v).status = s.status := rfl
@[simp] theorem State.setSlots_pending : (s.setSlots v).pending = s.pending := rfl
@[simp] theorem State.setSlots_crc : (s.setSlots v).crc = s.crc := rfl
@[simp] theorem State.setSlots_pos : (s.setSlots v).pos = s.pos := rfl
@[simp] theorem State.setSlots_argAddr : (s.setSlots v).argAddr = s.argAddr := rfl
@[simp] theorem State.setSlots_argLen : (s.setSlots v).argLen = s.argLen := rfl
@[simp] theorem State.setSlots_waste : (s.setSlots v).waste = s.waste := rfl
@[simp] theorem State.setSlots_rej : (s.setSlots v).rej = s.rej := rfl
@[simp] theorem State.setSlots_crcPair : (s.setSlots v).crcPair = s.crcPair := rfl
@[simp] theorem State.setSlots_pg : (s.setSlots v).pg = s.pg := rfl
@[simp] theorem State.setSlots_slots : (s.setSlots v).slots = v := rfl
@[simp] theorem State.setSlots_busy : (s.setSlots v).busy = s.busy := rfl
end

@[simp] theorem State.setPending_none_busy : (s.setPending none).busy = false := rfl
@[simp] theorem State.setPending_some_busy (w : Word) : (s.setPending (some w)).busy = true := rfl

end Sys2Proof.Machine
end

