-- ==== Sys2Proof/Laws/Ops.lean ====
section
/-! SUPPORT. What the shared operations leave in each field. -/

namespace Sys2Proof.Machine

variable (s : State)

section
variable (code : ResultCode)
@[simp] theorem complete_cfg : (complete code s).cfg = s.cfg := rfl
@[simp] theorem complete_src : (complete code s).src = s.src.settle := rfl
@[simp] theorem complete_host : (complete code s).host = s.host := rfl
@[simp] theorem complete_ctrl : (complete code s).ctrl = s.ctrl := rfl
@[simp] theorem complete_status : (complete code s).status = s.status.completed code := rfl
@[simp] theorem complete_pending : (complete code s).pending = none := rfl
@[simp] theorem complete_crc : (complete code s).crc = s.crc := rfl
@[simp] theorem complete_pos : (complete code s).pos = s.pos := rfl
@[simp] theorem complete_argAddr : (complete code s).argAddr = s.argAddr := rfl
@[simp] theorem complete_argLen : (complete code s).argLen = s.argLen := rfl
@[simp] theorem complete_waste : (complete code s).waste = s.waste := rfl
@[simp] theorem complete_rej : (complete code s).rej = s.rej := rfl
@[simp] theorem complete_crcPair : (complete code s).crcPair = s.crcPair := rfl
@[simp] theorem complete_pg : (complete code s).pg = s.pg := rfl
@[simp] theorem complete_slots : (complete code s).slots = s.slots := rfl
@[simp] theorem complete_busy : (complete code s).busy = false := rfl
end

section
variable (w : Word)
@[simp] theorem accept_cfg : (accept w s).cfg = s.cfg := rfl
@[simp] theorem accept_src : (accept w s).src = s.src := rfl
@[simp] theorem accept_host : (accept w s).host = s.host := rfl
@[simp] theorem accept_ctrl : (accept w s).ctrl = s.ctrl := rfl
@[simp] theorem accept_status : (accept w s).status = s.status.accepted := rfl
@[simp] theorem accept_pending : (accept w s).pending = some w := rfl
@[simp] theorem accept_crc : (accept w s).crc = s.crc := rfl
@[simp] theorem accept_pos : (accept w s).pos = s.pos := rfl
@[simp] theorem accept_argAddr : (accept w s).argAddr = s.argAddr := rfl
@[simp] theorem accept_argLen : (accept w s).argLen = s.argLen := rfl
@[simp] theorem accept_waste : (accept w s).waste = s.waste := rfl
@[simp] theorem accept_rej : (accept w s).rej = s.rej := rfl
@[simp] theorem accept_crcPair : (accept w s).crcPair = s.crcPair := rfl
@[simp] theorem accept_pg : (accept w s).pg = s.pg := rfl
@[simp] theorem accept_slots : (accept w s).slots = s.slots := rfl
@[simp] theorem accept_busy : (accept w s).busy = true := rfl
end

section
@[simp] theorem overrun_cfg : (overrun s).cfg = s.cfg := rfl
@[simp] theorem overrun_src : (overrun s).src = s.src := rfl
@[simp] theorem overrun_host : (overrun s).host = s.host := rfl
@[simp] theorem overrun_ctrl : (overrun s).ctrl = s.ctrl := rfl
@[simp] theorem overrun_status : (overrun s).status = s.status.overran := rfl
@[simp] theorem overrun_pending : (overrun s).pending = s.pending := rfl
@[simp] theorem overrun_crc : (overrun s).crc = s.crc := rfl
@[simp] theorem overrun_pos : (overrun s).pos = s.pos := rfl
@[simp] theorem overrun_argAddr : (overrun s).argAddr = s.argAddr := rfl
@[simp] theorem overrun_argLen : (overrun s).argLen = s.argLen := rfl
@[simp] theorem overrun_waste : (overrun s).waste = s.waste := rfl
@[simp] theorem overrun_rej : (overrun s).rej = s.rej := rfl
@[simp] theorem overrun_crcPair : (overrun s).crcPair = s.crcPair := rfl
@[simp] theorem overrun_pg : (overrun s).pg = s.pg := rfl
@[simp] theorem overrun_slots : (overrun s).slots = s.slots := rfl
@[simp] theorem overrun_busy : (overrun s).busy = s.busy := rfl
end

section
variable (v : Word)
@[simp] theorem acknowledge_cfg : (acknowledge v s).cfg = s.cfg := rfl
@[simp] theorem acknowledge_src : (acknowledge v s).src = s.src := rfl
@[simp] theorem acknowledge_host : (acknowledge v s).host = s.host := rfl
@[simp] theorem acknowledge_ctrl : (acknowledge v s).ctrl = s.ctrl := rfl
@[simp] theorem acknowledge_status : (acknowledge v s).status = s.status.w1c v := rfl
@[simp] theorem acknowledge_pending : (acknowledge v s).pending = s.pending := rfl
@[simp] theorem acknowledge_crc : (acknowledge v s).crc = s.crc := rfl
@[simp] theorem acknowledge_pos : (acknowledge v s).pos = s.pos := rfl
@[simp] theorem acknowledge_argAddr : (acknowledge v s).argAddr = s.argAddr := rfl
@[simp] theorem acknowledge_argLen : (acknowledge v s).argLen = s.argLen := rfl
@[simp] theorem acknowledge_waste : (acknowledge v s).waste = s.waste := rfl
@[simp] theorem acknowledge_rej : (acknowledge v s).rej = s.rej := rfl
@[simp] theorem acknowledge_crcPair : (acknowledge v s).crcPair = s.crcPair := rfl
@[simp] theorem acknowledge_pg : (acknowledge v s).pg = s.pg := rfl
@[simp] theorem acknowledge_slots : (acknowledge v s).slots = s.slots := rfl
@[simp] theorem acknowledge_busy : (acknowledge v s).busy = s.busy := rfl
end

section
variable (r : Rejection)
@[simp] theorem rejectCandidate_cfg : (rejectCandidate r s).cfg = s.cfg := rfl
@[simp] theorem rejectCandidate_src : (rejectCandidate r s).src = s.src := rfl
@[simp] theorem rejectCandidate_host : (rejectCandidate r s).host = s.host := rfl
@[simp] theorem rejectCandidate_ctrl : (rejectCandidate r s).ctrl = s.ctrl := rfl
@[simp] theorem rejectCandidate_status : (rejectCandidate r s).status = s.status.withLostSync true := rfl
@[simp] theorem rejectCandidate_pending : (rejectCandidate r s).pending = s.pending := rfl
@[simp] theorem rejectCandidate_crc : (rejectCandidate r s).crc = s.crc := rfl
@[simp] theorem rejectCandidate_pos : (rejectCandidate r s).pos = s.pos := rfl
@[simp] theorem rejectCandidate_argAddr : (rejectCandidate r s).argAddr = s.argAddr := rfl
@[simp] theorem rejectCandidate_argLen : (rejectCandidate r s).argLen = s.argLen := rfl
@[simp] theorem rejectCandidate_waste : (rejectCandidate r s).waste = s.waste := rfl
@[simp] theorem rejectCandidate_rej : (rejectCandidate r s).rej = s.rej.add r := rfl
@[simp] theorem rejectCandidate_crcPair : (rejectCandidate r s).crcPair = s.crcPair := rfl
@[simp] theorem rejectCandidate_pg : (rejectCandidate r s).pg = s.pg := rfl
@[simp] theorem rejectCandidate_slots : (rejectCandidate r s).slots = s.slots := rfl
@[simp] theorem rejectCandidate_busy : (rejectCandidate r s).busy = s.busy := rfl
end

section
variable (n : Nat)
@[simp] theorem seekTo_cfg : (seekTo n s).cfg = s.cfg := rfl
@[simp] theorem seekTo_src : (seekTo n s).src = s.src := rfl
@[simp] theorem seekTo_host : (seekTo n s).host = s.host := rfl
@[simp] theorem seekTo_ctrl : (seekTo n s).ctrl = s.ctrl := rfl
@[simp] theorem seekTo_status : (seekTo n s).status = s.status := rfl
@[simp] theorem seekTo_pending : (seekTo n s).pending = s.pending := rfl
@[simp] theorem seekTo_crc : (seekTo n s).crc = s.crc := rfl
@[simp] theorem seekTo_pos : (seekTo n s).pos = BitVec.ofNat 64 n := rfl
@[simp] theorem seekTo_argAddr : (seekTo n s).argAddr = s.argAddr := rfl
@[simp] theorem seekTo_argLen : (seekTo n s).argLen = s.argLen := rfl
@[simp] theorem seekTo_waste : (seekTo n s).waste = s.waste := rfl
@[simp] theorem seekTo_rej : (seekTo n s).rej = s.rej := rfl
@[simp] theorem seekTo_crcPair : (seekTo n s).crcPair = s.crcPair := rfl
@[simp] theorem seekTo_pg : (seekTo n s).pg = s.pg := rfl
@[simp] theorem seekTo_slots : (seekTo n s).slots = s.slots := rfl
@[simp] theorem seekTo_busy : (seekTo n s).busy = s.busy := rfl
end

section
variable (n : Nat)
@[simp] theorem addWaste_cfg : (addWaste n s).cfg = s.cfg := rfl
@[simp] theorem addWaste_src : (addWaste n s).src = s.src := rfl
@[simp] theorem addWaste_host : (addWaste n s).host = s.host := rfl
@[simp] theorem addWaste_ctrl : (addWaste n s).ctrl = s.ctrl := rfl
@[simp] theorem addWaste_status : (addWaste n s).status = s.status := rfl
@[simp] theorem addWaste_pending : (addWaste n s).pending = s.pending := rfl
@[simp] theorem addWaste_crc : (addWaste n s).crc = s.crc := rfl
@[simp] theorem addWaste_pos : (addWaste n s).pos = s.pos := rfl
@[simp] theorem addWaste_argAddr : (addWaste n s).argAddr = s.argAddr := rfl
@[simp] theorem addWaste_argLen : (addWaste n s).argLen = s.argLen := rfl
@[simp] theorem addWaste_waste : (addWaste n s).waste = s.waste + BitVec.ofNat 64 (8 * n) := rfl
@[simp] theorem addWaste_rej : (addWaste n s).rej = s.rej := rfl
@[simp] theorem addWaste_crcPair : (addWaste n s).crcPair = s.crcPair := rfl
@[simp] theorem addWaste_pg : (addWaste n s).pg = s.pg := rfl
@[simp] theorem addWaste_slots : (addWaste n s).slots = s.slots := rfl
@[simp] theorem addWaste_busy : (addWaste n s).busy = s.busy := rfl
end

section
variable (p : Page)
@[simp] theorem acceptPage_cfg : (acceptPage p s).cfg = s.cfg := rfl
@[simp] theorem acceptPage_src : (acceptPage p s).src = s.src := rfl
@[simp] theorem acceptPage_host : (acceptPage p s).host = s.host := rfl
@[simp] theorem acceptPage_ctrl : (acceptPage p s).ctrl = s.ctrl := rfl
@[simp] theorem acceptPage_status : (acceptPage p s).status = s.status.withLostSync false := rfl
@[simp] theorem acceptPage_pending : (acceptPage p s).pending = s.pending := rfl
@[simp] theorem acceptPage_crc : (acceptPage p s).crc = s.crc := rfl
@[simp] theorem acceptPage_pos : (acceptPage p s).pos = s.pos := rfl
@[simp] theorem acceptPage_argAddr : (acceptPage p s).argAddr = s.argAddr := rfl
@[simp] theorem acceptPage_argLen : (acceptPage p s).argLen = s.argLen := rfl
@[simp] theorem acceptPage_waste : (acceptPage p s).waste = s.waste := rfl
@[simp] theorem acceptPage_rej : (acceptPage p s).rej = s.rej := rfl
@[simp] theorem acceptPage_crcPair : (acceptPage p s).crcPair = s.crcPair := rfl
@[simp] theorem acceptPage_pg : (acceptPage p s).pg = pageRegs p s.status.lostSync (continuity s p).2 := rfl
@[simp] theorem acceptPage_slots : (acceptPage p s).slots = (continuity s p).1 := rfl
@[simp] theorem acceptPage_busy : (acceptPage p s).busy = s.busy := rfl
end

section
variable (l : List Turn)
@[simp] theorem State.withAgenda_cfg : (s.withAgenda l).cfg = s.cfg := rfl
@[simp] theorem State.withAgenda_src : (s.withAgenda l).src = s.src := rfl
@[simp] theorem State.withAgenda_host : (s.withAgenda l).host = { s.host with agenda := l } := rfl
@[simp] theorem State.withAgenda_ctrl : (s.withAgenda l).ctrl = s.ctrl := rfl
@[simp] theorem State.withAgenda_status : (s.withAgenda l).status = s.status := rfl
@[simp] theorem State.withAgenda_pending : (s.withAgenda l).pending = s.pending := rfl
@[simp] theorem State.withAgenda_crc : (s.withAgenda l).crc = s.crc := rfl
@[simp] theorem State.withAgenda_pos : (s.withAgenda l).pos = s.pos := rfl
@[simp] theorem State.withAgenda_argAddr : (s.withAgenda l).argAddr = s.argAddr := rfl
@[simp] theorem State.withAgenda_argLen : (s.withAgenda l).argLen = s.argLen := rfl
@[simp] theorem State.withAgenda_waste : (s.withAgenda l).waste = s.waste := rfl
@[simp] theorem State.withAgenda_rej : (s.withAgenda l).rej = s.rej := rfl
@[simp] theorem State.withAgenda_crcPair : (s.withAgenda l).crcPair = s.crcPair := rfl
@[simp] theorem State.withAgenda_pg : (s.withAgenda l).pg = s.pg := rfl
@[simp] theorem State.withAgenda_slots : (s.withAgenda l).slots = s.slots := rfl
@[simp] theorem State.withAgenda_busy : (s.withAgenda l).busy = s.busy := rfl
end

section
variable (v : Word)
@[simp] theorem record_cfg : (record v s).cfg = s.cfg := rfl
@[simp] theorem record_src : (record v s).src = s.src := rfl
@[simp] theorem record_host : (record v s).host = { s.host with reads := v :: s.host.reads } := rfl
@[simp] theorem record_ctrl : (record v s).ctrl = s.ctrl := rfl
@[simp] theorem record_status : (record v s).status = s.status := rfl
@[simp] theorem record_pending : (record v s).pending = s.pending := rfl
@[simp] theorem record_crc : (record v s).crc = s.crc := rfl
@[simp] theorem record_pos : (record v s).pos = s.pos := rfl
@[simp] theorem record_argAddr : (record v s).argAddr = s.argAddr := rfl
@[simp] theorem record_argLen : (record v s).argLen = s.argLen := rfl
@[simp] theorem record_waste : (record v s).waste = s.waste := rfl
@[simp] theorem record_rej : (record v s).rej = s.rej := rfl
@[simp] theorem record_crcPair : (record v s).crcPair = s.crcPair := rfl
@[simp] theorem record_pg : (record v s).pg = s.pg := rfl
@[simp] theorem record_slots : (record v s).slots = s.slots := rfl
@[simp] theorem record_busy : (record v s).busy = s.busy := rfl
end

section
@[simp] theorem drawn_cfg : (drawn s).cfg = s.cfg := rfl
@[simp] theorem drawn_src : (drawn s).src = s.src := rfl
@[simp] theorem drawn_host : (drawn s).host = { s.host with draws := s.host.draws + 1 } := rfl
@[simp] theorem drawn_ctrl : (drawn s).ctrl = s.ctrl := rfl
@[simp] theorem drawn_status : (drawn s).status = s.status := rfl
@[simp] theorem drawn_pending : (drawn s).pending = s.pending := rfl
@[simp] theorem drawn_crc : (drawn s).crc = s.crc := rfl
@[simp] theorem drawn_pos : (drawn s).pos = s.pos := rfl
@[simp] theorem drawn_argAddr : (drawn s).argAddr = s.argAddr := rfl
@[simp] theorem drawn_argLen : (drawn s).argLen = s.argLen := rfl
@[simp] theorem drawn_waste : (drawn s).waste = s.waste := rfl
@[simp] theorem drawn_rej : (drawn s).rej = s.rej := rfl
@[simp] theorem drawn_crcPair : (drawn s).crcPair = s.crcPair := rfl
@[simp] theorem drawn_pg : (drawn s).pg = s.pg := rfl
@[simp] theorem drawn_slots : (drawn s).slots = s.slots := rfl
@[simp] theorem drawn_busy : (drawn s).busy = s.busy := rfl
end

/-! STATUS, bit by bit -/

section
variable (t : Status) (code : ResultCode) (v : Word) (b : Bool)
@[simp] theorem Status.completed_done : (t.completed code).done = true := rfl
@[simp] theorem Status.completed_err : (t.completed code).err = (t.err || code.isError) := rfl
@[simp] theorem Status.completed_overrun : (t.completed code).overrun = t.overrun := rfl
@[simp] theorem Status.completed_dead : (t.completed code).dead = t.dead := rfl
@[simp] theorem Status.completed_lostSync : (t.completed code).lostSync = t.lostSync := rfl
@[simp] theorem Status.completed_result : (t.completed code).result = code := rfl
@[simp] theorem Status.withLostSync_done : (t.withLostSync b).done = t.done := rfl
@[simp] theorem Status.withLostSync_err : (t.withLostSync b).err = t.err := rfl
@[simp] theorem Status.withLostSync_overrun : (t.withLostSync b).overrun = t.overrun := rfl
@[simp] theorem Status.withLostSync_dead : (t.withLostSync b).dead = t.dead := rfl
@[simp] theorem Status.withLostSync_lostSync : (t.withLostSync b).lostSync = b := rfl
@[simp] theorem Status.withLostSync_result : (t.withLostSync b).result = t.result := rfl
@[simp] theorem Status.deaden_done : t.deaden.done = t.done := rfl
@[simp] theorem Status.deaden_err : t.deaden.err = t.err := rfl
@[simp] theorem Status.deaden_overrun : t.deaden.overrun = t.overrun := rfl
@[simp] theorem Status.deaden_dead : t.deaden.dead = true := rfl
@[simp] theorem Status.deaden_lostSync : t.deaden.lostSync = t.lostSync := rfl
@[simp] theorem Status.deaden_result : t.deaden.result = t.result := rfl
@[simp] theorem Status.undead_done : t.undead.done = t.done := rfl
@[simp] theorem Status.undead_err : t.undead.err = t.err := rfl
@[simp] theorem Status.undead_dead : t.undead.dead = false := rfl
@[simp] theorem Status.undead_lostSync : t.undead.lostSync = t.lostSync := rfl
@[simp] theorem Status.undead_result : t.undead.result = t.result := rfl
@[simp] theorem Status.undead_overrun : t.undead.overrun = t.overrun := rfl
@[simp] theorem Status.accepted_done : t.accepted.done = false := rfl
@[simp] theorem Status.accepted_err : t.accepted.err = t.err := rfl
@[simp] theorem Status.accepted_dead : t.accepted.dead = t.dead := rfl
@[simp] theorem Status.accepted_lostSync : t.accepted.lostSync = t.lostSync := rfl
@[simp] theorem Status.accepted_result : t.accepted.result = t.result := rfl
@[simp] theorem Status.accepted_overrun : t.accepted.overrun = t.overrun := rfl
@[simp] theorem Status.overran_done : t.overran.done = t.done := rfl
@[simp] theorem Status.overran_err : t.overran.err = true := rfl
@[simp] theorem Status.overran_dead : t.overran.dead = t.dead := rfl
@[simp] theorem Status.overran_lostSync : t.overran.lostSync = t.lostSync := rfl
@[simp] theorem Status.overran_result : t.overran.result = t.result := rfl
@[simp] theorem Status.overran_overrun : t.overran.overrun = true := rfl
@[simp] theorem Status.w1c_done : (t.w1c v).done = (t.done && !v.getLsbD 1) := rfl
@[simp] theorem Status.w1c_err : (t.w1c v).err = (t.err && !v.getLsbD 2) := rfl
@[simp] theorem Status.w1c_overrun : (t.w1c v).overrun = (t.overrun && !v.getLsbD 3) := rfl
@[simp] theorem Status.w1c_dead : (t.w1c v).dead = t.dead := rfl
@[simp] theorem Status.w1c_lostSync : (t.w1c v).lostSync = t.lostSync := rfl
@[simp] theorem Status.w1c_result : (t.w1c v).result = t.result := rfl
end

/-! The source, as the engine sees it -/

section
variable (r : Source)
@[simp] theorem Source.settle_len : r.settle.len = r.len := rfl
@[simp] theorem Source.settle_mem : r.settle.mem = r.mem := rfl
@[simp] theorem Source.settle_disturb : r.settle.disturb = none := rfl
end

theorem Source.engineLen_calm {r : Source} (h : r.disturb = none) : r.engineLen = r.len.toNat := by
  simp [Source.engineLen, h]

theorem Source.byte_calm {r : Source} (h : r.disturb = none) (site : ReadSite) (start a : Nat) :
    r.byte site start a = r.mem.read a := by
  simp [Source.byte, h]

/-- The length the engine sees lies between the old and the new lengths (R84). -/
theorem Source.engineLen_between {r : Source} {d : Disturb} (h : r.disturb = some d) (hd : d.lo ≤ d.hi) :
    d.lo ≤ r.engineLen ∧ r.engineLen ≤ d.hi := by
  have := Nat.mod_lt (Config.freeNat d.epoch) (Nat.succ_pos (d.hi - d.lo))
  simp only [Source.engineLen, h, Nat.succ_eq_add_one] at this ⊢
  omega

/-! The tables after reset -/

theorem replicate_getD {α : Type} (n : Nat) (x : α) (i : Nat) : (Vector.replicate n x).toList.getD i x = x := by
  rw [List.getD_eq_getElem?_getD, Vector.toList_replicate, List.getElem?_replicate]
  split <;> rfl

@[simp] theorem PageRegs.reset_segByte (i : Nat) : PageRegs.reset.segByte i = 0 := replicate_getD 256 0 i

@[simp] theorem PageRegs.reset_pktEntry (i : Nat) : PageRegs.reset.pktEntry i = PktEntry.zero :=
  replicate_getD 255 PktEntry.zero i

theorem State.slotAt_cleared {s : State} (h : s.slots = Vector.replicate 32 Slot.zero) (i : Nat) :
    s.slotAt i = Slot.zero := by
  rw [State.slotAt, h, replicate_getD, ite_self]

@[simp] theorem Slot.zero_word (k : Nat) : Slot.zero.word k = 0 := rfl

/-! REJ_INFO -/

theorem RejInfo.add_count_ne_zero (r : Rejection) (i : RejInfo) : (i.add r).count ≠ 0 := by
  unfold RejInfo.add
  split
  · simp
  · next h =>
    intro h0
    have h1 : i.count + 1 = 0 := h0
    exact h (by bv_omega)

@[simp] theorem RejInfo.add_last (r : Rejection) (i : RejInfo) : (i.add r).last = some r := rfl

end Sys2Proof.Machine
end

