-- ==== Sys2Proof/Laws/Host.lean ====
section
/-! SUPPORT. What a host access can do. -/

namespace Sys2Proof.Machine

theorem selectOffset_eq_some {base addr : Nat} {off : BitVec 12} :
    selectOffset base addr = some off ↔ base ≤ addr ∧ addr < base + 4096 ∧ addr = base + off.toNat := by
  unfold selectOffset
  constructor
  · intro h
    split at h
    · next hb =>
      have h' := Option.some.inj h
      subst h'
      refine ⟨hb.1, hb.2, ?_⟩
      rw [BitVec.toNat_ofNat]
      omega
    · cases h
  · rintro ⟨h1, h2, h3⟩
    rw [if_pos ⟨h1, h2⟩, h3]
    simp

/-- The block's own offsets stand at `MMIO_BASE` plus themselves (R85). -/
@[simp] theorem selectOffset_base_add (base : Nat) (off : BitVec 12) : selectOffset base (base + off.toNat) = some off :=
  selectOffset_eq_some.2 ⟨by omega, by have := off.isLt; omega, rfl⟩

/-- An access at an offset does what stands there does. -/
theorem access_base_add {width : Width} {off : BitVec 12} {g : Target} (h : resolve width off = some g)
    (act : Target → State) (s : State) : access width (s.cfg.mmioBase + off.toNat) act s = .next (act g) := by
  simp [access, h]

/-- An access is another device's, a bus error, or what its target does. -/
theorem access_cases (width : Width) (addr : Nat) (act : Target → State) (s : State) :
    (selectOffset s.cfg.mmioBase addr = none ∧ access width addr act s = .refused (.otherDevice addr)) ∨
    ∃ off, selectOffset s.cfg.mmioBase addr = some off ∧
      ((resolve width off = none ∧ access width addr act s = .fault (.busError off)) ∨
       ∃ t, resolve width off = some t ∧ access width addr act s = .next (act t)) := by
  unfold access
  cases h : selectOffset s.cfg.mmioBase addr with
  | none => exact .inl ⟨rfl, rfl⟩
  | some off =>
    refine .inr ⟨off, rfl, ?_⟩
    dsimp only
    cases h' : resolve width off with
    | none => exact .inl ⟨rfl, rfl⟩
    | some t => exact .inr ⟨t, rfl, rfl⟩

theorem access_next {width : Width} {addr : Nat} {act : Target → State} {s t : State}
    (h : access width addr act s = .next t) :
    ∃ off g, selectOffset s.cfg.mmioBase addr = some off ∧ resolve width off = some g ∧ t = act g := by
  rcases access_cases width addr act s with ⟨_, h'⟩ | ⟨off, ho, ⟨_, h'⟩ | ⟨g, hg, h'⟩⟩ <;> rw [h'] at h <;> cases h
  exact ⟨off, g, ho, hg, rfl⟩

/-- What a host read leaves: a recorded value, and a draw used if the value is one. -/
theorem readTarget_cases (g : Target) (s : State) :
    (readTarget g s = drawn (record (Config.freeWord s.host.draws) s) ∧ s.busy = true ∧ g.definedBusy = false) ∨
    (readTarget g s = record (peek s g) s ∧ (s.busy = false ∨ g.definedBusy = true)) := by
  unfold readTarget
  cases hb : s.busy <;> cases hd : g.definedBusy <;> simp

/-- A write to a register that may be written only while idle. -/
theorem idleOnly_cases (w : State → State) (s : State) :
    (s.busy = true ∧ idleOnly w s = overrun s) ∨ (s.busy = false ∧ idleOnly w s = w s) := by
  unfold idleOnly
  cases s.busy <;> simp

/-- What a host write leaves. -/
inductive Written (v : Word) (s : State) : State → Prop where
  | ignored : Written v s s
  | acknowledged : Written v s (acknowledge v s)
  | overrun (h : s.busy = true) : Written v s (Machine.overrun s)
  | ctrl (h : s.busy = false) : Written v s (s.setCtrl (Ctrl.ofWord v))
  | accepted (h : s.busy = false) : Written v s (accept v s)
  | crc (h : s.busy = false) : Written v s (s.setCrc v)
  | pos (h : s.busy = false) (p : DWord) : Written v s ((s.setPos p).setStatus s.status.undead)
  | argAddr (h : s.busy = false) (a : DWord) : Written v s (s.setArgAddr a)
  | argLen (h : s.busy = false) : Written v s (s.setArgLen v)

theorem idleOnly_written {v : Word} {w : State → State} {s : State} (h : s.busy = false → Written v s (w s)) :
    Written v s (idleOnly w s) := by
  rcases idleOnly_cases w s with ⟨hb, he⟩ | ⟨hb, he⟩ <;> rw [he]
  · exact .overrun hb
  · exact h hb

theorem writeTarget_cases (v : Word) (s : State) (g : Target) : Written v s (writeTarget v s g) := by
  unfold writeTarget
  split
  · exact idleOnly_written .ctrl
  · exact .acknowledged
  · exact idleOnly_written .accepted
  · exact idleOnly_written .crc
  · exact idleOnly_written fun h => .pos h _
  · exact idleOnly_written fun h => .pos h _
  · exact idleOnly_written fun h => .argAddr h _
  · exact idleOnly_written fun h => .argAddr h _
  · exact idleOnly_written .argLen
  · exact .ignored

/-- One poll of WAIT records STATUS and decides the agenda. -/
theorem hostWait_eq (s : State) : ∃ l, hostWait s = (record (s.status.toWord s.busy) s).withAgenda l := by
  have h : readTarget (.reg .status) s = record (s.status.toWord s.busy) s := by
    simp [readTarget, Target.definedBusy, peek]
  simp only [hostWait, h]
  split
  · exact ⟨_, rfl⟩
  · split
    · exact ⟨s.host.agenda, rfl⟩
    · exact ⟨_, rfl⟩

end Sys2Proof.Machine
end

