-- ==== Sys2Proof/Laws/Memory.lean ====
section
/-! SUPPORT. The byte source's memory: reading back a write, and the canonical form every operation keeps. -/

namespace Sys2Proof.Machine

@[simp] theorem Memory.read_nil (a : Nat) : Memory.read [] a = Memory.unlisted := rfl

theorem Memory.wfFrom_cons (n k : Nat) (v : Byte) (m : Memory) :
    Memory.wfFrom n ((k, v) :: m) = true ↔ n ≤ k ∧ v ≠ Memory.unlisted ∧ Memory.wfFrom (k + 1) m = true := by
  simp [Memory.wfFrom, and_assoc]

theorem Memory.wfFrom_mono {n n' : Nat} (hn : n' ≤ n) : ∀ {m : Memory}, Memory.wfFrom n m = true → Memory.wfFrom n' m = true
  | [], _ => rfl
  | (k, v) :: m, h => by
    rw [Memory.wfFrom_cons] at h ⊢
    exact ⟨Nat.le_trans hn h.1, h.2⟩

theorem Memory.read_below {a : Nat} : ∀ {n : Nat} {m : Memory}, Memory.wfFrom n m = true → a < n →
    Memory.read m a = Memory.unlisted
  | _, [], _, _ => rfl
  | n, (k, v) :: m, h, ha => by
    rw [Memory.wfFrom_cons] at h
    have hk : k ≠ a := by omega
    simp only [Memory.read, hk, if_false]
    exact Memory.read_below h.2.2 (by omega)

theorem Memory.read_cons {a : Nat} {b : Byte} {m : Memory} (h : Memory.wfFrom (a + 1) m = true) (x : Nat) :
    Memory.read (Memory.cons a b m) x = if x = a then b else Memory.read m x := by
  unfold Memory.cons
  by_cases hb : b = Memory.unlisted
  · by_cases hx : x = a
    · subst hx; simp [hb, Memory.read_below h]
    · simp [hb, hx]
  · simp only [hb, if_false, Memory.read]
    by_cases hx : x = a
    · simp [hx]
    · simp [hx, Ne.symm hx]

theorem Memory.cons_wfFrom {n a : Nat} {b : Byte} {m : Memory} (hn : n ≤ a) (h : Memory.wfFrom (a + 1) m = true) :
    Memory.wfFrom n (Memory.cons a b m) = true := by
  unfold Memory.cons
  split
  · exact Memory.wfFrom_mono (by omega) h
  · next hb => rw [Memory.wfFrom_cons]; exact ⟨hn, hb, h⟩

/-- A write keeps the canonical form. -/
theorem Memory.write_wfFrom {a : Nat} {b : Byte} : ∀ {n : Nat} {m : Memory}, Memory.wfFrom n m = true → n ≤ a →
    Memory.wfFrom n (Memory.write m a b) = true
  | _, [], _, hn => Memory.cons_wfFrom hn rfl
  | n, (k, v) :: m, h, hn => by
    have h' := (Memory.wfFrom_cons n k v m).1 h
    unfold Memory.write
    split
    · next hk =>
      exact Memory.cons_wfFrom hn ((Memory.wfFrom_cons _ _ _ _).2 ⟨by omega, h'.2⟩)
    · split
      · next hk => subst hk; exact Memory.cons_wfFrom hn h'.2.2
      · next h1 h2 =>
        exact (Memory.wfFrom_cons _ _ _ _).2 ⟨h'.1, h'.2.1, Memory.write_wfFrom h'.2.2 (by omega)⟩

theorem Memory.write_wf {m : Memory} {a : Nat} {b : Byte} (h : m.wf = true) : (Memory.write m a b).wf = true :=
  Memory.write_wfFrom h (Nat.zero_le a)

/-- Reading after a write gives the byte written there, and every other byte as before. -/
theorem Memory.read_write {a : Nat} {b : Byte} (x : Nat) : ∀ {n : Nat} {m : Memory}, Memory.wfFrom n m = true →
    Memory.read (Memory.write m a b) x = if x = a then b else Memory.read m x
  | _, [], _ => by
    rw [Memory.write, Memory.read_cons rfl]
  | n, (k, v) :: m, h => by
    have h' := (Memory.wfFrom_cons n k v m).1 h
    unfold Memory.write
    split
    · next hk =>
      rw [Memory.read_cons ((Memory.wfFrom_cons _ _ _ _).2 ⟨by omega, h'.2⟩)]
    · split
      · next hk =>
        subst hk
        rw [Memory.read_cons h'.2.2]
        by_cases hx : x = a
        · simp [hx]
        · simp [hx, Memory.read, Ne.symm hx]
      · next h1 h2 =>
        by_cases hx : k = x
        · subst hx; simp [Memory.read, Ne.symm h2]
        · simp [Memory.read, hx, Memory.read_write x h'.2.2]

theorem Memory.ofCells_wf (n : Nat) : ∀ (l : List Host.Cell) {m : Memory}, m.wf = true →
    (Memory.ofCells n l m).wf = true
  | [], _, h => h
  | (a, b) :: l, m, h => by
    unfold Memory.ofCells
    split
    · exact Memory.ofCells_wf n l (Memory.write_wf h)
    · exact Memory.ofCells_wf n l h

/-- Every listed offset is below `n`. -/
def Memory.below (n : Nat) (m : Memory) : Bool := m.all fun c => decide (c.1 < n)

theorem Memory.cons_below {n a : Nat} {b : Byte} {m : Memory} (ha : a < n) (h : m.below n = true) :
    (Memory.cons a b m).below n = true := by
  unfold Memory.cons
  split
  · exact h
  · simp only [Memory.below, List.all_cons, Bool.and_eq_true, decide_eq_true_eq] at h ⊢
    exact ⟨ha, h⟩

theorem Memory.write_below {n a : Nat} {b : Byte} (ha : a < n) : ∀ {m : Memory}, m.below n = true →
    (Memory.write m a b).below n = true
  | [], h => Memory.cons_below ha h
  | (k, v) :: m, h => by
    have h' : k < n ∧ Memory.below n m = true := by simpa [Memory.below] using h
    unfold Memory.write
    split
    · exact Memory.cons_below ha h
    · split
      · exact Memory.cons_below ha h'.2
      · simp only [Memory.below, List.all_cons, Bool.and_eq_true, decide_eq_true_eq]
        exact ⟨h'.1, Memory.write_below ha h'.2⟩

theorem Memory.ofCells_below (n : Nat) : ∀ (l : List Host.Cell) {m : Memory}, m.below n = true →
    (Memory.ofCells n l m).below n = true
  | [], _, h => h
  | (a, b) :: l, m, h => by
    unfold Memory.ofCells
    split
    · next ha => exact Memory.ofCells_below n l (Memory.write_below ha h)
    · exact Memory.ofCells_below n l h

/-- Whatever is attached, the source is canonical. -/
theorem Source.attach_wf (busy : Bool) (epoch : Nat) (len : DWord) (cells : List Host.Cell) (r : Source) :
    (r.attach busy epoch len cells).wf = true := by
  have h : (Memory.ofCells len.toNat cells []).wf = true ∧ (Memory.ofCells len.toNat cells []).below len.toNat = true :=
    ⟨Memory.ofCells_wf _ _ rfl, Memory.ofCells_below _ _ rfl⟩
  simp only [Source.attach, Source.wf]
  split <;> simpa [Memory.below] using h

@[simp] theorem Source.settle_wf (r : Source) : r.settle.wf = r.wf := rfl

@[simp] theorem Source.bytes_length (r : Source) (site : ReadSite) (a n : Nat) : (r.bytes site a n).length = n := by
  simp [Source.bytes]

theorem Source.bytes_getD (r : Source) (site : ReadSite) (a : Nat) {n i : Nat} (h : i < n) (d : Byte) :
    (r.bytes site a n).getD i d = r.byte site a (a + i) := by
  simp [Source.bytes, List.getD, h]

@[simp] theorem State.memRead_length (s : State) (site : ReadSite) (a n : Nat) : (s.memRead site a n).length = n :=
  s.src.bytes_length site a n

end Sys2Proof.Machine
end

