-- ==== Sys2Proof/Laws/Page.lean ====
section
/-! SUPPORT. What checking a candidate, scanning, tracking a stream and the PAGE_NEXT loop can do. -/

namespace Sys2Proof.Machine

/-! Checking one candidate -/

/-- What `PageCheck` returning OK says of the page and of the state (R151). -/
structure Accepted (s : State) (c : Nat) (t : State) (p : Page) : Prop where
  state   : ∃ x, t = s.setCrcPair ⟨x, x⟩
  off     : p.off = c
  version : p.version = 0
  nseg    : p.nseg = p.segs.length
  few     : p.nseg ≤ 255
  plen    : p.plen = segSum p.segs
  len     : p.len = hdrLen + p.nseg + p.plen
  fits    : c + p.len ≤ s.srcLen
  some    : p.nseg = 0 → s.ctrl.nseg0Accept = true

theorem segSum_le (segs : List Byte) : segSum segs ≤ 255 * segs.length := by
  induction segs with
  | nil => simp [segSum]
  | cons b bs ih =>
    have : b.toNat ≤ 255 := by have := b.isLt; omega
    simp only [segSum, List.map_cons, List.sum_cons, List.length_cons] at ih ⊢
    omega

theorem byteAt_toNat_le (h : List Byte) (i : Nat) : (byteAt h i).toNat ≤ 255 := by
  have := (byteAt h i).isLt; omega

/-- `PageCheck` writes the CRC pair at most (R151, R158). -/
theorem pageCheck_state (s : State) (c : Nat) :
    (pageCheck s c).1 = s ∨ ∃ pair, (pageCheck s c).1 = s.setCrcPair pair := by
  unfold pageCheck
  repeat' (split <;> try (left; rfl))
  unfold checkHeader
  repeat' (split <;> try (left; rfl))
  simp only [checkTable]
  repeat' (split <;> try (left; rfl))
  exact .inr ⟨_, rfl⟩

/-- `PageCheck` answers EOI exactly when no byte is left (R156). -/
theorem pageCheck_eoi_iff (s : State) (c : Nat) : (pageCheck s c).2 = .eoi ↔ s.srcLen ≤ c := by
  unfold pageCheck
  split
  · simp [*]
  · next h =>
    refine ⟨fun h' => ?_, fun h' => absurd h' h⟩
    exfalso
    split at h'
    · cases h'
    · split at h'
      · cases h'
      · unfold checkHeader at h'
        split at h'
        · cases h'
        · split at h'
          · cases h'
          · simp only [checkTable] at h'
            split at h'
            · cases h'
            · split at h'
              · cases h'
              · simp only [checkCrc] at h'
                split at h' <;> cases h'

theorem pageCheck_eoi {s : State} {c : Nat} (h : s.srcLen ≤ c) : pageCheck s c = (s, .eoi) := by
  simp [pageCheck, h]

theorem pageCheck_ok {s t : State} {c : Nat} {p : Page} (h : pageCheck s c = (t, .ok p)) : Accepted s c t p := by
  unfold pageCheck at h
  split at h
  · cases h
  · split at h
    · cases h
    · split at h
      · cases h
      · unfold checkHeader at h
        split at h
        · cases h
        · next hv =>
          split at h
          · cases h
          · next hn =>
            simp only [checkTable] at h
            split at h
            · cases h
            · split at h
              · cases h
              · next hp =>
                simp only [checkCrc] at h
                split at h
                · next hc =>
                  cases h
                  simp only [State.avail] at hp
                  refine ⟨⟨_, by rw [hc]⟩, rfl, by simpa [pageOf] using hv, ?_, ?_, rfl, rfl, ?_, ?_⟩
                  · simp [pageOf]
                  · exact byteAt_toNat_le _ _
                  · simp only [pageOf, hdrLen] at hp ⊢; omega
                  · intro h0
                    have h26 : byteAt (s.memRead .header c hdrLen) 26 = 0 := by
                      simpa [pageOf, BitVec.toNat_eq] using h0
                    simpa [h26] using hn
                · cases h

theorem Accepted.len_le {s t : State} {c : Nat} {p : Page} (h : Accepted s c t p) : p.len ≤ 65307 := by
  have h1 := segSum_le p.segs
  have h2 := h.plen
  have h3 := h.len
  have h4 := h.few
  have h5 := h.nseg
  simp only [hdrLen] at h3
  omega

/-! Scanning -/

theorem findCapture_some {s : State} : ∀ {k o r : Nat}, findCapture s o k = some r →
    o ≤ r ∧ r < o + k ∧ captureAt s .scan r = true ∧ ∀ x, o ≤ x → x < r → captureAt s .scan x = false
  | 0, _, _, h => by cases h
  | k + 1, o, r, h => by
    unfold findCapture at h
    split at h
    · next hc =>
      cases h
      exact ⟨Nat.le_refl _, by omega, hc, fun x h1 h2 => by omega⟩
    · next hc =>
      obtain ⟨h1, h2, h3, h4⟩ := findCapture_some h
      refine ⟨by omega, by omega, h3, fun x hx1 hx2 => ?_⟩
      by_cases hxo : x = o
      · subst hxo; simpa using hc
      · exact h4 x (by omega) hx2

theorem findCapture_none {s : State} : ∀ {k o : Nat}, findCapture s o k = none →
    ∀ x, o ≤ x → x < o + k → captureAt s .scan x = false
  | 0, _, _, x, h1, h2 => by omega
  | k + 1, o, h, x, h1, h2 => by
    unfold findCapture at h
    split at h
    · cases h
    · next hc =>
      by_cases hxo : x = o
      · subst hxo; simpa using hc
      · exact findCapture_none h x (by omega) (by omega)

/-- A found candidate lies past the rejected one, within the window, with its four bytes present (R167). -/
theorem scan_found {s : State} {c o : Nat} (h : scan s c = .found o) :
    c < o ∧ o ≤ c + resyncWindow ∧ o + 4 ≤ s.srcLen ∧ captureAt s .scan o = true ∧
      ∀ x, c < x → x < o → captureAt s .scan x = false := by
  unfold scan at h
  split at h
  · next o' ho =>
    cases h
    obtain ⟨h1, h2, h3, h4⟩ := findCapture_some ho
    have : scanCount s c = min (c + resyncWindow) (s.srcLen - 4) - c := rfl
    exact ⟨by omega, by omega, by omega, h3, fun x hx1 hx2 => h4 x (by omega) hx2⟩
  · split at h <;> cases h

theorem scan_notFound {s : State} {c : Nat} (h : scan s c = .endOfInput ∨ scan s c = .windowEmpty) :
    ∀ x, c < x → x ≤ c + resyncWindow → x + 4 ≤ s.srcLen → captureAt s .scan x = false := by
  unfold scan at h
  split at h
  · rcases h with h | h <;> cases h
  · next hn =>
    intro x h1 h2 h3
    have : scanCount s c = min (c + resyncWindow) (s.srcLen - 4) - c := rfl
    exact findCapture_none hn x (by omega) (by omega)

theorem scan_endOfInput {s : State} {c : Nat} (h : scan s c = .endOfInput) : s.srcLen < c + 1 + resyncWindow + 3 := by
  unfold scan at h
  split at h
  · cases h
  · split at h
    · assumption
    · cases h

theorem scan_windowEmpty {s : State} {c : Nat} (h : scan s c = .windowEmpty) : c + 1 + resyncWindow + 3 ≤ s.srcLen := by
  unfold scan at h
  split at h
  · cases h
  · split at h
    · cases h
    · omega

/-! Scanning depends on the byte source alone -/

theorem findCapture_src {s t : State} (h : t.src = s.src) : ∀ k o, findCapture t o k = findCapture s o k
  | 0, _ => rfl
  | k + 1, o => by
    have hc : captureAt t .scan o = captureAt s .scan o := by simp only [captureAt, State.memRead, h]
    rw [findCapture, findCapture, hc, findCapture_src h k]

theorem scan_src {s t : State} (h : t.src = s.src) (c : Nat) : scan t c = scan s c := by
  have hl : t.srcLen = s.srcLen := by simp only [State.srcLen, h]
  have hn : scanCount t c = scanCount s c := by simp only [scanCount, hl]
  rw [scan, scan, findCapture_src h, hn, hl]

/-! Continuity -/

theorem trackedSlot_some {n : Nat} {slots : Vector Slot 32} {serial : Word} {i : Fin 32}
    (h : trackedSlot n slots serial = some i) : i.val < n ∧ slots[i].valid = true ∧ slots[i].serial = serial := by
  have := List.find?_some h
  simpa [and_assoc] using this

theorem trackedSlot_none {n : Nat} {slots : Vector Slot 32} {serial : Word} (h : trackedSlot n slots serial = none)
    (i : Fin 32) (hi : i.val < n) (hv : slots[i].valid = true) : slots[i].serial ≠ serial := by
  have hn := List.find?_eq_none.1 h i (List.mem_finRange i)
  have : slots[i].valid = true → ¬slots[i].serial = serial := by simpa [hi] using hn
  exact this hv

theorem freeSlot_some {n : Nat} {slots : Vector Slot 32} {i : Fin 32} (h : freeSlot n slots = some i) :
    i.val < n ∧ slots[i].valid = false := by
  have := List.find?_some h
  simpa using this

theorem freeSlot_none {n : Nat} {slots : Vector Slot 32} (h : freeSlot n slots = none) (i : Fin 32) (hi : i.val < n) :
    slots[i].valid = true := by
  have := List.find?_eq_none.1 h i (List.mem_finRange i)
  simpa [hi] using this

/-- What tracking a page can do (R171, R172, R173). -/
theorem track_cases (n : Nat) (slots : Vector Slot 32) (p : Page) :
    (∃ i, trackedSlot n slots p.serial = some i ∧ track n slots p =
      (slots.set i (slots[i].follow p), ⟨slots[i].gapAt p, slots[i].regressAt p, false, false, true, i, true⟩)) ∨
    (trackedSlot n slots p.serial = none ∧ ∃ j, freeSlot n slots = some j ∧ track n slots p =
      (slots.set j (Slot.start p), ⟨false, false, true, false, true, j, true⟩)) ∨
    (trackedSlot n slots p.serial = none ∧ freeSlot n slots = none ∧ track n slots p =
      (slots, ⟨false, false, false, true, true, 0, false⟩)) := by
  unfold track
  split
  · next i hi => exact .inl ⟨i, hi, rfl⟩
  · next hi =>
    split
    · next j hj => exact .inr (.inl ⟨hi, j, hj, rfl⟩)
    · next hj => exact .inr (.inr ⟨hi, hj, rfl⟩)

/-! The PAGE_NEXT loop -/

/-- From candidate `c` the loop comes to candidate `d` by rejections and found candidates alone (R166). -/
inductive Resynced : State → Nat → State → Nat → Prop where
  | here (s : State) (c : Nat) : Resynced s c s c
  | further {s t u : State} {c o d : Nat} {r : Rejection} (hc : pageCheck s c = (t, .rejected r))
      (hs : scan (rejectCandidate r t) c = .found o) (hr : Resynced (addWaste (o - c) (rejectCandidate r t)) o u d) :
      Resynced s c u d

/-- How the loop ends at candidate `d` (R166). -/
inductive LoopEnd (u : State) (d : Nat) : State → Prop where
  | accepted {t : State} {p : Page} (h : pageCheck u d = (t, .ok p)) : LoopEnd u d (finishPage p t)
  | ended (h : u.srcLen ≤ d) : LoopEnd u d (complete .eoi u)
  | truncated {t : State} (h : pageCheck u d = (t, .truncated)) : LoopEnd u d (complete .truncated (seekTo d t))
  | exhausted {t : State} {r : Rejection} (h : pageCheck u d = (t, .rejected r))
      (hs : scan (rejectCandidate r t) d = .endOfInput) : LoopEnd u d
        (complete .eoi (seekTo (rejectCandidate r t).srcLen
          (addWaste ((rejectCandidate r t).srcLen - d) (rejectCandidate r t))))
  | corrupt {t : State} {r : Rejection} (h : pageCheck u d = (t, .rejected r))
      (hs : scan (rejectCandidate r t) d = .windowEmpty) : LoopEnd u d (giveUp d (rejectCandidate r t))

@[simp] theorem srcLen_setCrcPair (s : State) (v : CrcPair) : (s.setCrcPair v).srcLen = s.srcLen := rfl
@[simp] theorem srcLen_rejectCandidate (s : State) (r : Rejection) : (rejectCandidate r s).srcLen = s.srcLen := rfl
@[simp] theorem srcLen_addWaste (s : State) (n : Nat) : (addWaste n s).srcLen = s.srcLen := rfl
@[simp] theorem srcLen_setRej (s : State) (v : RejInfo) : (s.setRej v).srcLen = s.srcLen := rfl

theorem pageCheck_srcLen {s t : State} {c : Nat} {v : Verdict} (h : pageCheck s c = (t, v)) : t.srcLen = s.srcLen := by
  have : t = (pageCheck s c).1 := by rw [h]
  rcases pageCheck_state s c with h' | ⟨pair, h'⟩ <;> (rw [this, h']; try rfl)

theorem nextLoop_ends : ∀ {fuel : Nat} {s : State} {c : Nat}, s.srcLen - c ≤ fuel →
    ∃ u d, Resynced s c u d ∧ LoopEnd u d (nextLoop fuel s c)
  | 0, s, c, hf => ⟨s, c, .here s c, .ended (by omega)⟩
  | fuel + 1, s, c, hf => by
    unfold nextLoop
    split
    · next t p h => exact ⟨s, c, .here s c, .accepted h⟩
    · next t h =>
      have he : s.srcLen ≤ c := (pageCheck_eoi_iff s c).1 (by rw [h])
      rw [pageCheck_eoi he] at h
      cases h
      exact ⟨s, c, .here s c, .ended he⟩
    · next t h => exact ⟨s, c, .here s c, .truncated h⟩
    · next t r h =>
      dsimp only
      split
      · next o ho =>
        have h1 := scan_found ho
        have h2 := pageCheck_srcLen h
        have hfuel : (addWaste (o - c) (rejectCandidate r t)).srcLen - o ≤ fuel := by
          simp only [srcLen_addWaste, srcLen_rejectCandidate] at h1 ⊢
          omega
        obtain ⟨u, d, hr, he⟩ := nextLoop_ends hfuel
        exact ⟨u, d, .further h ho hr, he⟩
      · next ho => exact ⟨s, c, .here s c, .exhausted h ho⟩
      · next ho => exact ⟨s, c, .here s c, .corrupt h ho⟩

/-- More fuel than `L - c` changes nothing (R178). -/
theorem nextLoop_fuel : ∀ {fuel fuel' : Nat} {s : State} {c : Nat}, s.srcLen - c ≤ fuel → s.srcLen - c ≤ fuel' →
    nextLoop fuel s c = nextLoop fuel' s c
  | 0, 0, _, _, _, _ => rfl
  | 0, n + 1, s, c, h, _ => by
    rw [nextLoop, nextLoop, pageCheck_eoi (by omega)]
  | n + 1, 0, s, c, _, h => by
    rw [nextLoop, nextLoop, pageCheck_eoi (by omega)]
  | n + 1, m + 1, s, c, hn, hm => by
    unfold nextLoop
    split
    · rfl
    · rfl
    · rfl
    · next t r h =>
      dsimp only
      split
      · next o ho =>
        have h1 := scan_found ho
        have h2 := pageCheck_srcLen h
        simp only [srcLen_rejectCandidate] at h1
        exact nextLoop_fuel (by simp only [srcLen_addWaste, srcLen_rejectCandidate]; omega)
          (by simp only [srcLen_addWaste, srcLen_rejectCandidate]; omega)
      · rfl
      · rfl

/-- What a change of candidate leaves alone: everything but LOST_SYNC, WASTE, REJ_INFO and the CRC pair. -/
structure SameButScan (s t : State) : Prop where
  cfg      : t.cfg = s.cfg
  src      : t.src = s.src
  host     : t.host = s.host
  ctrl     : t.ctrl = s.ctrl
  pending  : t.pending = s.pending
  crc      : t.crc = s.crc
  pos      : t.pos = s.pos
  argAddr  : t.argAddr = s.argAddr
  argLen   : t.argLen = s.argLen
  pg       : t.pg = s.pg
  slots    : t.slots = s.slots
  done     : t.status.done = s.status.done
  err      : t.status.err = s.status.err
  overrun  : t.status.overrun = s.status.overrun
  dead     : t.status.dead = s.status.dead
  result   : t.status.result = s.status.result

theorem SameButScan.refl (s : State) : SameButScan s s := by constructor <;> rfl

theorem SameButScan.trans {s t u : State} (h : SameButScan s t) (k : SameButScan t u) : SameButScan s u where
  cfg := k.cfg.trans h.cfg
  src := k.src.trans h.src
  host := k.host.trans h.host
  ctrl := k.ctrl.trans h.ctrl
  pending := k.pending.trans h.pending
  crc := k.crc.trans h.crc
  pos := k.pos.trans h.pos
  argAddr := k.argAddr.trans h.argAddr
  argLen := k.argLen.trans h.argLen
  pg := k.pg.trans h.pg
  slots := k.slots.trans h.slots
  done := k.done.trans h.done
  err := k.err.trans h.err
  overrun := k.overrun.trans h.overrun
  dead := k.dead.trans h.dead
  result := k.result.trans h.result

theorem pageCheck_same {s t : State} {c : Nat} {v : Verdict} (h : pageCheck s c = (t, v)) :
    SameButScan s t ∧ t.waste = s.waste ∧ t.rej = s.rej ∧ t.status = s.status := by
  have ht : t = (pageCheck s c).1 := by rw [h]
  rcases pageCheck_state s c with h' | ⟨pair, h'⟩ <;> rw [ht, h']
  · exact ⟨.refl s, rfl, rfl, rfl⟩
  · exact ⟨by constructor <;> rfl, rfl, rfl, rfl⟩

theorem reject_same (r : Rejection) (s : State) : SameButScan s (rejectCandidate r s) := by constructor <;> rfl
theorem addWaste_same (n : Nat) (s : State) : SameButScan s (addWaste n s) := by constructor <;> rfl

/-- Coming to a later candidate changes LOST_SYNC, WASTE, REJ_INFO and the CRC pair at most. -/
theorem Resynced.same {s u : State} {c d : Nat} (h : Resynced s c u d) : SameButScan s u := by
  induction h with
  | here s c => exact .refl s
  | further hc _ _ ih => exact ((pageCheck_same hc).1.trans ((reject_same _ _).trans (addWaste_same _ _))).trans ih

theorem Resynced.le {s u : State} {c d : Nat} (h : Resynced s c u d) : c ≤ d := by
  induction h with
  | here s c => exact Nat.le_refl _
  | further _ hs _ ih => have := scan_found hs; omega

/-- Unless the loop stands where it began, a candidate was rejected: LOST_SYNC is 1 and REJ_INFO names it. -/
theorem Resynced.lost {s u : State} {c d : Nat} (h : Resynced s c u d) :
    (u = s ∧ d = c) ∨ (c < d ∧ u.status.lostSync = true ∧ u.rej.last ≠ none ∧ d + 4 ≤ u.srcLen) := by
  induction h with
  | here s c => exact .inl ⟨rfl, rfl⟩
  | further hc hs _ ih =>
    have hf := scan_found hs
    rcases ih with ⟨rfl, rfl⟩ | ⟨h1, h2⟩
    · exact .inr ⟨hf.1, rfl, by simp, hf.2.2.1⟩
    · exact .inr ⟨by omega, h2⟩

/-- Coming to candidate `d` counted every byte passed over as waste (R168). -/
theorem Resynced.waste {s u : State} {c d : Nat} (h : Resynced s c u d) :
    u.waste = s.waste + BitVec.ofNat 64 (8 * (d - c)) := by
  induction h with
  | here s c => simp
  | @further s t u c o d r hc hs hr ih =>
    have h1 := (scan_found hs).1
    have h2 := hr.le
    rw [ih, addWaste_waste, rejectCandidate_waste, (pageCheck_same hc).2.1, BitVec.add_assoc]
    congr 1
    apply BitVec.eq_of_toNat_eq
    simp only [BitVec.toNat_add, BitVec.toNat_ofNat]
    omega

/-- Unless the loop stands where it began, REJ_INFO counts a rejection. -/
theorem Resynced.count {s u : State} {c d : Nat} (h : Resynced s c u d) : (u = s ∧ d = c) ∨ u.rej.count ≠ 0 := by
  induction h with
  | here s c => exact .inl ⟨rfl, rfl⟩
  | further _ _ _ ih =>
    right
    rcases ih with ⟨rfl, -⟩ | h
    · exact RejInfo.add_count_ne_zero _ _
    · exact h

/-- What the end of the loop leaves alone, and that page registers and tables change on OK alone. -/
theorem LoopEnd.frame {u t : State} {d : Nat} (h : LoopEnd u d t) :
    t.cfg = u.cfg ∧ t.src = u.src.settle ∧ t.host = u.host ∧ t.ctrl = u.ctrl ∧ t.pending = none ∧ t.crc = u.crc ∧
    t.argAddr = u.argAddr ∧ t.argLen = u.argLen ∧ t.status.done = true ∧ t.status.overrun = u.status.overrun ∧
    t.status.err = (u.status.err || t.status.result.isError) ∧
    (t.status.result = .ok ∨
      ((t.status.result = .eoi ∨ t.status.result = .truncated ∨ t.status.result = .corrupt) ∧
        t.pg = u.pg ∧ t.slots = u.slots)) := by
  cases h with
  | accepted h =>
    have k := (pageCheck_same h).1
    simp [finishPage, k.cfg, k.src, k.host, k.ctrl, k.crc, k.argAddr, k.argLen, k.overrun, k.err]
  | ended h => simp
  | truncated h =>
    have k := (pageCheck_same h).1
    simp [k.cfg, k.src, k.host, k.ctrl, k.crc, k.argAddr, k.argLen, k.overrun, k.err, k.pg, k.slots]
  | exhausted h hs =>
    have k := (pageCheck_same h).1
    simp [k.cfg, k.src, k.host, k.ctrl, k.crc, k.argAddr, k.argLen, k.overrun, k.err, k.pg, k.slots]
  | corrupt h hs =>
    have k := (pageCheck_same h).1
    simp [giveUp, k.cfg, k.src, k.host, k.ctrl, k.crc, k.argAddr, k.argLen, k.overrun, k.err, k.pg, k.slots]

/-! What the tables of an accepted page hold -/

theorem PageRegs.segByte_segTable {p : PageRegs} {segs : List Byte} (h : segs.length ≤ 255) (hp : p.seg = segTable segs)
    (i : Nat) : p.segByte i = segs.getD i 0 := by
  unfold PageRegs.segByte
  rw [hp, segTable]
  by_cases hi : i < 256
  · simp [List.getD_eq_getElem?_getD, hi]
  · simp [List.getD_eq_getElem?_getD, hi, show segs.length ≤ i by omega]

theorem PageRegs.pktEntry_pktTable {p : PageRegs} {pk : List Frag} (h : pk.length ≤ 255) (hp : p.pkt = pktTable pk)
    (i : Nat) : p.pktEntry i = (pk.map Frag.entry).getD i PktEntry.zero := by
  unfold PageRegs.pktEntry
  rw [hp, pktTable]
  by_cases hi : i < 255
  · simp [List.getD_eq_getElem?_getD, hi]
  · simp [List.getD_eq_getElem?_getD, hi, show pk.length ≤ i by omega]

/-- A closing segment makes one entry, an open one none; so a page with an open last segment has one to spare. -/
theorem foldl_laceStep_length (segs : List Byte) : ∀ t : LaceState,
    (segs.foldl laceStep t).pk.length ≤ t.pk.length + segs.length ∧
    (segs.getLast? = some 255 → (segs.foldl laceStep t).pk.length + 1 ≤ t.pk.length + segs.length) := by
  induction segs with
  | nil => intro t; simp
  | cons a as ih =>
    intro t
    have h1 := ih (laceStep t a)
    have h2 : (laceStep t a).pk.length ≤ t.pk.length + 1 := by unfold laceStep; dsimp only; split <;> simp
    refine ⟨by simp only [List.foldl_cons, List.length_cons]; omega, fun h => ?_⟩
    simp only [List.foldl_cons, List.length_cons]
    cases as with
    | nil =>
      have : a = 255 := by simpa using h
      subst this
      simp [laceStep]
    | cons b bs =>
      have := h1.2 (by simpa [List.getLast?_cons_cons] using h)
      omega

@[simp] theorem markFirst_length (flags : Byte) (l : List Frag) : (markFirst flags l).length = l.length := by
  cases l <;> simp [markFirst]

/-- A page has at most as many packet entries as segments (R161). -/
theorem lacing_length_le (segs : List Byte) (flags : Byte) : (lacing segs flags).1.length ≤ segs.length := by
  have := foldl_laceStep_length segs ⟨[], 0, 0, 0⟩
  simp only [List.length_nil, Nat.zero_add] at this
  simp only [lacing, markFirst_length]
  split
  · next h =>
    simp only [List.length_append, List.length_cons, List.length_nil]
    exact this.2 (by simpa [lastCont] using h)
  · exact this.1

/-- The slot a page is tracked in is one of the 32 (R56). -/
theorem continuity_slot_lt (s : State) (p : Page) : (continuity s p).2.slot < 32 := by
  unfold continuity
  split
  · rcases track_cases s.cfg.streamSlots s.slots p with ⟨i, -, h⟩ | ⟨-, i, -, h⟩ | ⟨-, -, h⟩ <;> rw [h] <;> simp
  · simp

end Sys2Proof.Machine
end

