-- ==== Sys2Proof/Laws/PageImage.lean ====
section
/-! SUPPORT. Bytes and numbers, and what the engine reads from a source that holds given bytes. -/

namespace Sys2Proof.Machine

theorem leBytes_length : ∀ (k n : Nat), (leBytes k n).length = k
  | 0, _ => rfl
  | k + 1, n => by simp [leBytes, leBytes_length k]

theorem leNat_leBytes : ∀ (k n : Nat), leNat (leBytes k n) = n % 256 ^ k
  | 0, n => by simp [leBytes, leNat, Nat.mod_one]
  | k + 1, n => by
    rw [leBytes, leNat, leNat_leBytes k, BitVec.toNat_ofNat, show 256 ^ (k + 1) = 256 * 256 ^ k from Nat.pow_succ',
      Nat.mod_mul]

theorem leBytes_leNat : ∀ (bs : List Byte), leBytes bs.length (leNat bs) = bs
  | [] => rfl
  | b :: bs => by
    have h1 : BitVec.ofNat 8 (b.toNat + 256 * leNat bs) = b := by
      apply BitVec.eq_of_toNat_eq
      have := b.isLt
      rw [BitVec.toNat_ofNat]
      omega
    have h2 : (b.toNat + 256 * leNat bs) / 256 = leNat bs := by have := b.isLt; omega
    rw [List.length_cons, leNat, leBytes, h1, h2, leBytes_leNat bs]

theorem leNat_lt : ∀ (bs : List Byte), leNat bs < 256 ^ bs.length
  | [] => by simp [leNat]
  | b :: bs => by
    have h1 := b.isLt
    have h2 := leNat_lt bs
    rw [List.length_cons, leNat, Nat.pow_succ']
    omega

theorem slice_length (h : List Byte) (i n : Nat) : (slice h i n).length = min n (h.length - i) := by
  simp [slice]

/-! The sizes of a page -/

theorem PageFields.front_length (f : PageFields) : f.front.length = 22 := by
  simp [PageFields.front, capturePattern, leBytes_length]

theorem PageFields.back_length (f : PageFields) : f.back.length = 1 + f.segs.length + f.payload.length := by
  simp [PageFields.back]
  omega

theorem PageFields.image_length (f : PageFields) : f.image.length = 27 + f.segs.length + f.payload.length := by
  simp [PageFields.image, f.front_length, f.back_length, leBytes_length]
  omega

/-! Reading a source nothing has changed while busy -/

theorem State.memRead_calm {s : State} (h : s.src.disturb = none) (site : ReadSite) (a n : Nat) :
    s.memRead site a n = (List.range n).map fun i => s.src.mem.read (a + i) := by
  simp [State.memRead, Source.bytes, Source.byte_calm h]

theorem State.srcLen_calm {s : State} (h : s.src.disturb = none) : s.srcLen = s.src.len.toNat :=
  Source.engineLen_calm h

/-- A read inside held bytes gives them. -/
theorem State.holdsAt.memRead {s : State} {c : Nat} {bs : List Byte} (h : s.holdsAt c bs) (site : ReadSite) {j n : Nat}
    (hj : j + n ≤ bs.length) : s.memRead site (c + j) n = slice bs j n := by
  obtain ⟨hd, hl, hb⟩ := h
  rw [s.memRead_calm hd]
  apply List.ext_getElem
  · simp [slice_length]; omega
  · intro i h1 h2
    have hi : i < n := by simpa using h1
    have := hb (j + i) (by omega)
    rw [List.getElem_map, List.getElem_range, Nat.add_assoc, this]
    simp [slice, List.getD_eq_getElem?_getD, show j + i < bs.length by omega]

/-- A source holds what the engine reads from it. -/
theorem State.holdsAt_iff_memRead {s : State} (hd : s.src.disturb = none) (site : ReadSite) {c : Nat} {bs : List Byte} :
    s.holdsAt c bs ↔ c + bs.length ≤ s.srcLen ∧ s.memRead site c bs.length = bs := by
  rw [State.srcLen_calm hd]
  constructor
  · intro h
    refine ⟨h.2.1, ?_⟩
    have := h.memRead site (j := 0) (n := bs.length) (by omega)
    simpa [slice] using this
  · rintro ⟨hl, hr⟩
    refine ⟨hd, hl, fun i hi => ?_⟩
    have h1 : (s.memRead site c bs.length).getD i 0 = bs.getD i 0 := by rw [hr]
    rw [s.memRead_calm hd] at h1
    simpa [List.getD_eq_getElem?_getD, hi] using h1

end Sys2Proof.Machine
end

