-- ==== Sys2Proof/Laws/PerInstr.lean ====
section
/-! SUPPORT. One law of every command as syntax, constructor by constructor. -/

namespace Sys2Proof.Laws.LegalFields

/-- The word of a command has legal fields (R114): a known OP, RSVD 0, and IMM8 0 unless the OP is 0x02. -/
def Statement (i : Instr) : Prop := (fieldsOf (encode i)).legal = true

theorem nop : Statement .nop := rfl
theorem crcClear : Statement .crcClear := rfl

theorem crcByte (b : Byte) : Statement (.crcByte b) := by
  unfold Statement
  revert b
  decide

theorem crcRun : Statement .crcRun := rfl
theorem pageCheck : Statement .pageCheck := rfl
theorem pageNext : Statement .pageNext := rfl
theorem wasteClear : Statement .wasteClear := rfl
theorem streamsClear : Statement .streamsClear := rfl
theorem softReset : Statement .softReset := rfl

end Sys2Proof.Laws.LegalFields
end

