-- ==== Sys2Proof/Laws/Step.lean ====
section
/-! SUPPORT. Once for all: what a command's execution and one step can do. -/

namespace Sys2Proof.Machine

/-- The state a page command other than a dead one starts its checks in: REJ_INFO zeroed (R43). -/
def State.cleared (s : State) : State := s.setRej RejInfo.reset

/-- What executing a command leaves, case by case. -/
inductive Executed (s : State) : Instr → State → Prop where
  | nop : Executed s .nop (complete .ok s)
  | crcClear : Executed s .crcClear (complete .ok (s.setCrc 0))
  | crcByte (b : Byte) : Executed s (.crcByte b) (complete .ok (s.setCrc (crcUpdate s.crc b)))
  | crcRun (h : s.argAddr.toNat + s.argLen.toNat ≤ s.srcLen) : Executed s .crcRun
      (complete .ok (s.setCrc (crcBytes s.crc (s.memRead .crcRun s.argAddr.toNat s.argLen.toNat))))
  | crcRunShort (h : s.srcLen < s.argAddr.toNat + s.argLen.toNat) : Executed s .crcRun (complete .truncated s)
  | checkDead (h : s.status.dead = true) : Executed s .pageCheck (complete .eoi s)
  | checkOk {t : State} {p : Page} (h : s.status.dead = false) (hc : pageCheck s.cleared s.pos.toNat = (t, .ok p)) :
      Executed s .pageCheck (finishPage p t)
  | checkEoi (h : s.status.dead = false) (hc : s.srcLen ≤ s.pos.toNat) :
      Executed s .pageCheck (complete .eoi s.cleared)
  | checkTruncated {t : State} (h : s.status.dead = false) (hc : pageCheck s.cleared s.pos.toNat = (t, .truncated)) :
      Executed s .pageCheck (complete .truncated t)
  | checkRejected {t : State} {r : Rejection} (h : s.status.dead = false)
      (hc : pageCheck s.cleared s.pos.toNat = (t, .rejected r)) :
      Executed s .pageCheck (complete r.result (rejectCandidate r t))
  | nextDead (h : s.status.dead = true) : Executed s .pageNext (complete .eoi s)
  | next {u t : State} {d : Nat} (h : s.status.dead = false) (hr : Resynced s.cleared s.pos.toNat u d)
      (he : LoopEnd u d t) : Executed s .pageNext t
  | wasteClear : Executed s .wasteClear (complete .ok (s.setWaste 0))
  | streamsClear : Executed s .streamsClear (complete .ok (s.setSlots (Vector.replicate 32 Slot.zero)))
  | softReset : Executed s .softReset (complete .ok (blockReset s))

/-- Every command has its effect: `exec` answers a next state, and one of the cases above. -/
theorem exec_executed (i : Instr) (s : State) : ∃ t, exec i s = .next t ∧ Executed s i t := by
  cases i with
  | nop => exact ⟨_, rfl, .nop⟩
  | crcClear => exact ⟨_, rfl, .crcClear⟩
  | crcByte b => exact ⟨_, rfl, .crcByte b⟩
  | crcRun =>
    by_cases h : s.srcLen < s.argAddr.toNat + s.argLen.toNat
    · exact ⟨_, by simp [exec, execCrcRun, h], .crcRunShort h⟩
    · exact ⟨_, by simp [exec, execCrcRun, h], .crcRun (by omega)⟩
  | pageCheck =>
    cases hd : s.status.dead with
    | true => exact ⟨_, by simp [exec, execPageCheck, hd], .checkDead hd⟩
    | false =>
      refine ⟨checkAt s.cleared s.pos.toNat, by simp [exec, execPageCheck, hd, State.cleared], ?_⟩
      unfold checkAt
      split
      · next t p h => exact .checkOk hd h
      · next t h =>
        have he : s.cleared.srcLen ≤ s.pos.toNat := (pageCheck_eoi_iff _ _).1 (by rw [h])
        rw [pageCheck_eoi he] at h
        cases h
        exact .checkEoi hd he
      · next t h => exact .checkTruncated hd h
      · next t r h => exact .checkRejected hd h
  | pageNext =>
    cases hd : s.status.dead with
    | true => exact ⟨_, by simp [exec, execPageNext, hd], .nextDead hd⟩
    | false =>
      obtain ⟨u, d, hr, he⟩ := nextLoop_ends (Nat.le_refl (s.cleared.srcLen - s.pos.toNat))
      exact ⟨_, by simp [exec, execPageNext, hd, State.cleared, nextFrom], .next hd hr he⟩
  | wasteClear => exact ⟨_, rfl, .wasteClear⟩
  | streamsClear => exact ⟨_, rfl, .streamsClear⟩
  | softReset => exact ⟨_, rfl, .softReset⟩

theorem exec_next {i : Instr} {s t : State} (h : exec i s = .next t) : Executed s i t := by
  obtain ⟨t', h1, h2⟩ := exec_executed i s
  rw [h1] at h
  cases h
  exact h2

theorem cleared_same (s : State) : SameButScan s s.cleared := by constructor <;> rfl

/-- What every command leaves alone, and what every command but SOFT_RESET leaves alone. -/
theorem Executed.frame {i : Instr} {s t : State} (h : Executed s i t) :
    t.cfg = s.cfg ∧ t.src = s.src.settle ∧ t.host = s.host ∧ t.pending = none ∧ t.status.done = true ∧
    (i ≠ .softReset → t.ctrl = s.ctrl ∧ t.argAddr = s.argAddr ∧ t.argLen = s.argLen ∧
      t.status.overrun = s.status.overrun ∧ t.status.err = (s.status.err || t.status.result.isError)) := by
  cases h with
  | checkOk h hc =>
    have k := (cleared_same s).trans (pageCheck_same hc).1
    simp [finishPage, k.cfg, k.src, k.host, k.ctrl, k.argAddr, k.argLen, k.overrun, k.err]
  | checkEoi h hc => simp [State.cleared]
  | checkTruncated h hc =>
    have k := (cleared_same s).trans (pageCheck_same hc).1
    simp [k.cfg, k.src, k.host, k.ctrl, k.argAddr, k.argLen, k.overrun, k.err]
  | checkRejected h hc =>
    have k := (cleared_same s).trans (pageCheck_same hc).1
    simp [k.cfg, k.src, k.host, k.ctrl, k.argAddr, k.argLen, k.overrun, k.err]
  | next h hr he =>
    have k := (cleared_same s).trans hr.same
    have f := he.frame
    simp [f, k.cfg, k.src, k.host, k.ctrl, k.argAddr, k.argLen, k.overrun, k.err]
  | softReset => exact ⟨rfl, rfl, rfl, rfl, rfl, fun h => absurd rfl h⟩
  | _ => simp

/-- What the engine's step leaves (R227). -/
inductive Engine (s : State) : State → Prop where
  | idle (h : s.pending = none) : Engine s s
  | command {w : Word} {i : Instr} {t : State} (h : s.pending = some w) (hd : decode w = .ok i) (he : Executed s i t) :
      Engine s t
  | illegal {w : Word} {e : Illegal} (h : s.pending = some w) (hd : decode w = .error e) : Engine s (complete .illegal s)

theorem engineStep_cases (s : State) : ∃ t, engineStep s = .next t ∧ Engine s t := by
  unfold engineStep
  cases hp : s.pending with
  | none => exact ⟨_, rfl, .idle hp⟩
  | some w =>
    dsimp only
    cases hd : decode w with
    | ok i =>
      obtain ⟨t, h1, h2⟩ := exec_executed i s
      exact ⟨t, h1, .command hp hd h2⟩
    | error e => exact ⟨_, rfl, .illegal hp hd⟩

/-- What one turn leaves; `s` is the state with the turn taken off the agenda. -/
inductive Turned (s : State) : Turn → State → Prop where
  | read {width : Width} {addr : Nat} {off : BitVec 12} {g : Target} (ho : selectOffset s.cfg.mmioBase addr = some off)
      (hg : resolve width off = some g) : Turned s (.read width addr) (readTarget g s)
  | write {width : Width} {addr : Nat} {off : BitVec 12} {g : Target} {v : Word}
      (ho : selectOffset s.cfg.mmioBase addr = some off) (hg : resolve width off = some g) :
      Turned s (.write width addr v) (writeTarget v s g)
  | wait : Turned s .wait (hostWait s)
  | engine {t : State} (h : Engine s t) : Turned s .engine t
  | attach {len : DWord} {cells : List Host.Cell} : Turned s (.attach len cells) (attachSource len cells s)
  | reset : Turned s .reset (resetInput s)

theorem takeTurn_next {turn : Turn} {s t : State} (h : takeTurn turn s = .next t) : Turned s turn t := by
  cases turn with
  | read width addr =>
    obtain ⟨off, g, ho, hg, rfl⟩ := access_next h
    exact .read ho hg
  | write width addr v =>
    obtain ⟨off, g, ho, hg, rfl⟩ := access_next h
    exact .write ho hg
  | wait => cases h; exact .wait
  | engine =>
    obtain ⟨t', h1, h2⟩ := engineStep_cases s
    have h' : engineStep s = .next t := h
    rw [h1] at h'
    cases h'
    exact .engine h2
  | attach len cells => cases h; exact .attach
  | reset => cases h; exact .reset

/-- What one step can do: the engine runs on with no turn left, or the next turn is taken. -/
theorem step_next {s t : State} (h : step s = .next t) :
    (s.host.agenda = [] ∧ Engine s t) ∨
    ∃ turn rest, s.host.agenda = turn :: rest ∧ Turned (s.withAgenda rest) turn t := by
  unfold step at h
  split at h
  · next ha =>
    obtain ⟨t', h1, h2⟩ := engineStep_cases s
    rw [h1] at h
    cases h
    exact .inl ⟨ha, h2⟩
  · next turn rest ha => exact .inr ⟨turn, rest, ha, takeTurn_next h⟩

end Sys2Proof.Machine
end

