-- ==== Sys2Proof/Laws/Words.lean ====
section
/-! SUPPORT. Registers bit by bit: fields in their places, the halves of a 64-bit value, and the entries behind
the windows. -/

namespace Sys2Proof.Machine

/-- Bit `i` of a register made of fields. -/
theorem getLsbD_field (lo : Nat) {n : Nat} (v : BitVec n) (i : Nat) :
    (field lo v).getLsbD i = (decide (i < 32) && !decide (i < lo) && v.getLsbD (i - lo)) := by
  simp only [field, BitVec.getLsbD_shiftLeft, BitVec.getLsbD_setWidth]
  by_cases h : i - lo < 32
  · simp [h]
  · have : ¬ i < 32 := by omega
    simp [this]

theorem getLsbD_flag (lo : Nat) (b : Bool) (i : Nat) : (flag lo b).getLsbD i = (decide (i < 32) && decide (i = lo) && b) := by
  rw [flag, getLsbD_field]
  by_cases h : i = lo
  · subst h; simp
  · by_cases h2 : i < lo
    · simp [h, h2]
    · have : ∃ k, i - lo = k + 1 := ⟨i - lo - 1, by omega⟩
      obtain ⟨k, hk⟩ := this
      simp [h, hk]

@[simp] theorem join64_halves (v : DWord) : join64 (hi32 v) (lo32 v) = v := by
  apply BitVec.eq_of_getLsbD_eq
  intro i hi
  simp only [join64, hi32, lo32, BitVec.getLsbD_or, BitVec.getLsbD_shiftLeft, BitVec.getLsbD_setWidth,
    BitVec.getLsbD_ushiftRight]
  by_cases h : i < 32
  · simp [h, hi]
  · have h1 : i - 32 < 32 := by omega
    have h2 : 32 + (i - 32) = i := by omega
    have h3 : i - 32 < 64 := by omega
    simp [h, hi, h1, h2, h3]

@[simp] theorem lo32_join64 (h l : Word) : lo32 (join64 h l) = l := by
  apply BitVec.eq_of_getLsbD_eq
  intro i hi
  have h2 : i < 64 := by omega
  simp only [join64, lo32, BitVec.getLsbD_or, BitVec.getLsbD_shiftLeft, BitVec.getLsbD_setWidth]
  simp [hi, h2]

@[simp] theorem hi32_join64 (h l : Word) : hi32 (join64 h l) = h := by
  apply BitVec.eq_of_getLsbD_eq
  intro i hi
  have h1 : 32 + i < 64 := by omega
  have h2 : i < 64 := by omega
  simp only [join64, hi32, BitVec.getLsbD_or, BitVec.getLsbD_shiftLeft, BitVec.getLsbD_setWidth,
    BitVec.getLsbD_ushiftRight]
  simp [hi, h1, h2]

/-- The halves as fields of the value: `_LO` is bits [31:0], `_HI` bits [63:32] (R90). -/
theorem lo32_eq_extractLsb' (v : DWord) : lo32 v = v.extractLsb' 0 32 := by
  apply BitVec.eq_of_getLsbD_eq
  intro i hi
  simp [lo32, hi]

theorem hi32_eq_extractLsb' (v : DWord) : hi32 v = v.extractLsb' 32 32 := by
  apply BitVec.eq_of_getLsbD_eq
  intro i hi
  simp [hi32, hi]

/-! The entries behind the windows' words -/

@[simp] theorem PageRegs.pktEntry_fin (p : PageRegs) (i : Fin 255) : p.pktEntry i = p.pkt[i] := by
  simp [PageRegs.pktEntry, List.getD_eq_getElem?_getD]

/-- A 256th packet entry reads 0 (R55). -/
@[simp] theorem PageRegs.pktEntry_255 (p : PageRegs) : p.pktEntry 255 = PktEntry.zero := by
  simp [PageRegs.pktEntry, List.getD_eq_getElem?_getD]

theorem State.slotAt_fin {s : State} {i : Fin 32} (h : i.val < s.cfg.streamSlots) : s.slotAt i = s.slots[i] := by
  simp [State.slotAt, h, List.getD_eq_getElem?_getD]

/-- The slots from `STREAM_SLOTS` on are empty (R56). -/
theorem State.slotAt_absent {s : State} {i : Nat} (h : s.cfg.streamSlots ≤ i) : s.slotAt i = Slot.zero := by
  simp [State.slotAt, show ¬ i < s.cfg.streamSlots by omega]

end Sys2Proof.Machine
end

