-- ==== Sys2Proof/Tests/Slice0.lean ====
section
/-! SUPPORT. Tests whose expected values are the spec's own (95_test_vectors.md, 30_encoding.md), the checks of
WellFormed refusing ill-formed terms, and for every statement with hypotheses a state that meets them. -/

namespace Sys2Proof.Tests

-- One theorem at a time: a kernel evaluation of its own thread reserves a whole stack, and many at once exceed the memory limit.
set_option Elab.async false

open Sys2Proof Sys2Proof.Machine

/-! ## Small states -/

/-- Bytes as cells from an offset on. -/
def cellsAt : Nat → List Byte → List Host.Cell
  | _, []      => []
  | a, b :: bs => (a, b) :: cellsAt (a + 1) bs

/-- The reset state over a source of these bytes. -/
def holding (bs : List Byte) : State :=
  State.reset.setSrc ⟨BitVec.ofNat 64 bs.length, Memory.ofCells bs.length (cellsAt 0 bs) [], none⟩

/-- The reset state over a source of zero bytes. -/
def zeros (n : Nat) : State := State.reset.setSrc ⟨BitVec.ofNat 64 n, [], none⟩

/-- The reset state with a command word in flight. -/
def inFlight (w : Word) : State := accept w State.reset

/-- The reset state with a host that has these turns to come. -/
def turns (l : List Turn) (s : State) : State := s.withAgenda l

/-- A look at the next state, none where there is no next state. -/
def after {α : Type} (o : Host.Outcome State Fault Refusal) (f : State → α) : Option α :=
  match o with
  | .next s    => some (f s)
  | .fault _   => none
  | .refused _ => none

/-- STATUS as the host reads it. -/
def statusOf (s : State) : Word := peek s (.reg .status)

/-! The test pages of 95_test_vectors.md section 2 -/

def pageA : List Byte :=
  [0x4f, 0x67, 0x67, 0x53, 0x00, 0x02, 0x00, 0x00, 0x00, 0x00, 0x00, 0x00, 0x00, 0x00, 0x01, 0x02, 0x03, 0x04, 0x00, 0x00,
   0x00, 0x00, 0xb5, 0xb6, 0x93, 0x16, 0x01, 0x1e, 0x01, 0x76, 0x6f, 0x72, 0x62, 0x69, 0x73, 0x00, 0x00, 0x00, 0x00, 0x01,
   0x44, 0xac, 0x00, 0x00, 0x00, 0x00, 0x00, 0x00, 0x80, 0x38, 0x01, 0x00, 0x00, 0x00, 0x00, 0x00, 0xb8, 0x01]

def pageF : List Byte :=
  [0x4f, 0x67, 0x67, 0x53, 0x00, 0xf8, 0x07, 0x00, 0x00, 0x00, 0x00, 0x00, 0x00, 0x00, 0x33, 0x00, 0x00, 0x00, 0x00, 0x00,
   0x00, 0x00, 0x7b, 0x6b, 0xa1, 0x69, 0x01, 0x01, 0x55]

def pageZ : List Byte :=
  [0x4f, 0x67, 0x67, 0x53, 0x00, 0x00, 0xff, 0xff, 0xff, 0xff, 0xff, 0xff, 0xff, 0xff, 0x0d, 0x0c, 0x0b, 0x0a, 0x07, 0x00,
   0x00, 0x00, 0xfc, 0x90, 0x05, 0xd6, 0x00]

/-- The fields of page F. -/
def fieldsF : PageFields := ⟨0xF8, 7, 0x33, 0, [1], [0x55]⟩
/-- The fields of page Z, which has no segment. -/
def fieldsZ : PageFields := ⟨0x00, 0xFFFFFFFFFFFFFFFF, 0x0A0B0C0D, 7, [], []⟩

/-- The reset state with NSEG0_ACCEPT set over page Z. -/
def acceptingZ : State := (holding pageZ).setCtrl (Ctrl.ofWord 0xC)

/-- Page F after `xyz`. -/
def afterXyz : State := holding ([0x78, 0x79, 0x7a] ++ pageF)

/-! ## WellFormed refuses -/

theorem test_config_no_slot : (Config.mk 0 0).legal = false := by decide
theorem test_config_33_slots : (Config.mk 33 0).legal = false := by decide
theorem test_config_misaligned_base : (Config.mk 8 0x10).legal = false := by decide
theorem test_config_bounds : (Config.mk 1 0x1000).legal = true ∧ (Config.mk 32 0).legal = true := by decide
theorem test_fields_reserved_op : (CmdFields.mk 0 0 0x04).legal = false := by decide
theorem test_fields_imm_on_page_check : (CmdFields.mk 0 0x01 0x10).legal = false := by decide
theorem test_fields_rsvd : (CmdFields.mk 0x0001 0xFF 0x02).legal = false := by decide
theorem test_line_value_too_wide : (Line.wr .ctrl (2 ^ 32)).wellFormed = false := by decide
theorem test_line_offset_outside : (Line.rdAt 4096).wellFormed = false := by decide
theorem test_line_seek_too_far : (Line.seek (2 ^ 64)).wellFormed = false := by decide
theorem test_page_payload_length : (PageFields.mk 0 0 0 0 [3] [1, 2]).wellFormed = false := by decide
theorem test_page_256_segments : (PageFields.mk 0 0 0 0 (List.replicate 256 0) []).wellFormed = false := by decide +kernel

/-! ## Decoding: words written out from the format of R110 and the OP and IMM8 columns of R113 -/

theorem test_decode_nop : decode 0b0000000000000000_00000000_00000000 = .ok .nop := by decide
theorem test_decode_crcClear : decode 0b0000000000000000_00000000_00000001 = .ok .crcClear := by decide
theorem test_decode_crcByte : decode 0b0000000000000000_01001111_00000010 = .ok (.crcByte 0x4F) := by decide
theorem test_decode_crcRun : decode 0b0000000000000000_00000000_00000011 = .ok .crcRun := by decide
theorem test_decode_pageCheck : decode 0b0000000000000000_00000000_00010000 = .ok .pageCheck := by decide
theorem test_decode_pageNext : decode 0b0000000000000000_00000000_00010001 = .ok .pageNext := by decide
theorem test_decode_wasteClear : decode 0b0000000000000000_00000000_00100000 = .ok .wasteClear := by decide
theorem test_decode_streamsClear : decode 0b0000000000000000_00000000_00100001 = .ok .streamsClear := by decide
theorem test_decode_softReset : decode 0b0000000000000000_00000000_11111111 = .ok .softReset := by decide

/-- X5 to X9, and the ends of R115's reserved ranges. -/
theorem test_decode_illegal :
    [0x00000004, 0x0000000F, 0x00000012, 0x0000001F, 0x00000022, 0x000000FE, 0x00010010, 0x00000110, 0x0001FF02].map
      (fun w : Word => match decode w with | .ok _ => none | .error e => some e) =
    [some .reservedOp, some .reservedOp, some .reservedOp, some .reservedOp, some .reservedOp, some .reservedOp,
     some .rsvdNotZero, some .immNotZero, some .rsvdNotZero] := by decide

theorem test_decodeTableWord : decodeTableWord 32 0x00004F02 = some (.crcByte 0x4F) ∧ decodeTableWord 32 0x12 = none := by
  decide

/-! ## One step of each command -/

/-- X1. -/
theorem test_nop : after (step (State.reset.withFetchWord 32 0x00)) statusOf = some 0x00000002 := by decide +kernel

/-- K1. -/
theorem test_crcClear : after (exec .crcClear (State.reset.setCrc 0x12345678)) (fun t => (t.crc, statusOf t)) =
    some (0, 0x00000002) := by decide +kernel

/-- K2. -/
theorem test_crcByte : after (step (State.reset.withFetchWord 32 0x4F02)) (fun t => (t.crc, statusOf t)) =
    some (0x0CC9CDCA, 0x00000002) := by decide +kernel

/-- K4. -/
theorem test_crcByte_ones : after (exec (.crcByte 0) (State.reset.setCrc 0xFFFFFFFF)) (·.crc) = some 0x4E08BFB4 := by
  decide +kernel

/-- C2, through CRC_RUN. -/
theorem test_crcRun : after (exec .crcRun ((holding [0x4f, 0x67, 0x67, 0x53]).setArgLen 4)) (fun t => (t.crc, statusOf t)) =
    some (0x5FB0A94F, 0x00000002) := by decide +kernel

/-- K9: the sum 2^64 + 1 does not wrap. -/
theorem test_crcRun_no_wrap :
    after (exec .crcRun (((holding pageA).setArgAddr 0xFFFFFFFFFFFFFFFF).setArgLen 2)) (fun t => (t.crc, statusOf t)) =
    some (0, 0x00000206) := by decide +kernel

/-- P1. -/
theorem test_pageCheck : after (exec .pageCheck (holding pageA))
    (fun t => [statusOf t, lo32 t.pos, t.pg.len, t.pg.hdrWord, t.pg.serial, t.pg.payloadLen, t.pg.info.toWord,
      t.pg.segWord 0, (t.pg.pktEntry 0).word0, (t.pg.pktEntry 0).word1, t.crcPair.stored, t.crcPair.computed,
      (t.slotAt 0).word 4]) =
    some [0x00000002, 58, 58, 0x00010200, 0x04030201, 30, 0x20500001, 0x0000001E, 0, 0x8000001E, 0x1693B6B5, 0x1693B6B5,
      0x3] := by decide +kernel

/-- P4: byte 40 XOR 0x01. -/
theorem test_pageCheck_crc : after (exec .pageCheck (holding (pageA.set 40 0x45)))
    (fun t => [statusOf t, t.rej.toWord, t.crcPair.stored, t.crcPair.computed]) =
    some [0x00001326, 0x00130001, 0x1693B6B5, 0x97F460C0] := by decide +kernel

/-- N1, its first command. -/
theorem test_pageNext : after (exec .pageNext (holding ([0x78, 0x79, 0x7a] ++ pageA)))
    (fun t => [statusOf t, lo32 t.pg.off, lo32 t.pos, lo32 t.waste, t.rej.toWord, t.pg.info.toWord]) =
    some [0x00000002, 3, 61, 24, 0x00100001, 0x20520001] := by decide +kernel

/-- N9. -/
theorem test_pageNext_end : after (exec .pageNext (holding [0x78, 0x79, 0x7a]))
    (fun t => [statusOf t, lo32 t.pos, lo32 t.waste, t.rej.toWord]) = some [0x00000122, 3, 24, 0x00100001] := by
  decide +kernel

/-- X2. -/
theorem test_wasteClear : after (exec .wasteClear (State.reset.setWaste 24)) (fun t => (t.waste, statusOf t)) =
    some (0, 0x00000002) := by decide +kernel

/-- X3: after P1's slot 0, every word of the slot reads 0. -/
theorem test_streamsClear :
    after (exec .streamsClear (State.reset.setSlots ((Vector.replicate 32 Slot.zero).set 0 ⟨0x04030201, 0, 0, true, true, false⟩)))
      (fun t => (List.range 8).map fun k => peek t (.stream 0 k)) = some (List.replicate 8 0) := by decide +kernel

/-- X4: from the state N8 leaves. -/
theorem test_softReset : after (exec .softReset (State.reset.setStatus ⟨true, true, false, true, true, .corrupt⟩))
    (fun t => (statusOf t, t.ctrl.toWord)) = some (0x00000002, 0x00000004) := by decide +kernel

/-- X9. -/
theorem test_illegal : after (step (State.reset.withFetchWord 32 0x0001FF02)) (fun t => (statusOf t, t.crc)) =
    some (0x00002006, 0) := by decide +kernel

/-! ## Shared functions -/

/-- C1 of section 3.1. -/
theorem test_crc_check : crcBytes crcInit [0x31, 0x32, 0x33, 0x34, 0x35, 0x36, 0x37, 0x38, 0x39] = 0x89A1897F := by
  decide +kernel

/-- L1, L2. -/
theorem test_lacing : lacing [3, 0, 5] 0x00 = ([⟨0, 3, true, false⟩, ⟨3, 0, true, false⟩, ⟨3, 5, true, false⟩], false) ∧
    lacing [2, 255] 0x01 = ([⟨0, 2, true, true⟩, ⟨2, 255, false, false⟩], true) := by decide

/-- The lacing values of lengths 0, 255 and 600 (section 4). -/
theorem test_packetSegs : packetSegs 0 = [0] ∧ packetSegs 255 = [255, 0] ∧ packetSegs 600 = [255, 255, 90] := by decide

/-- N5: sequence numbers wrap without a gap. N4: 50 after 100 is a regression, −1 is not. -/
theorem test_continuity : (Slot.mk 5 0xFFFFFFFF 1 true true false).gapAt ⟨0, 29, 0, 0, 2, 5, 0, 1, [1], 1⟩ = false ∧
    (Slot.mk 9 1 100 true true false).regressAt ⟨0, 29, 0, 0, 50, 9, 2, 1, [1], 1⟩ = true ∧
    (Slot.mk 9 0 100 true true false).regressAt ⟨0, 29, 0, 0, granNone, 9, 1, 1, [1], 1⟩ = false := by decide

/-- The layout of R150 gives the spec's bytes of pages F and Z, their CRC fields with them. -/
theorem test_image : fieldsF.image = pageF ∧ fieldsZ.image = pageZ := by decide +kernel

/-- A later cell lies over an earlier one, and a zero byte is not listed. -/
theorem test_memory : Memory.ofCells 4 [(2, 7), (1, 5), (2, 0), (9, 1)] [] = [(1, 5)] := by decide

/-! ## The host's side -/

/-- X11. -/
theorem test_ctrl_readback : peek (writeTarget 0xFFFFFFFF State.reset (.reg .ctrl)) (.reg .ctrl) = 0x0000000F := by decide

/-- X14. -/
theorem test_bus_errors : resolve .w32 0x070 = none ∧ resolve .w32 0x002 = none ∧ resolve .w16 0x000 = none := by decide

/-- X15. -/
theorem test_w1c : statusOf (writeTarget 0x00000004 (State.reset.setStatus ⟨true, true, false, false, true, .rejCrc⟩)
    (.reg .status)) = 0x00001322 := by decide +kernel

/-- X16's second outcome: the write comes first. -/
theorem test_overrun : after (core.run 3 (turns [.write .w32 0x010 0x01, .write .w32 0x018 5, .engine] State.reset))
    (fun t => (t.pos, statusOf t)) = some (0, 0x0000000E) := by decide +kernel

/-- S1's last line, run by its program: `CRC_BYTE 0x53`, then WAIT's polls show BUSY, then DONE. -/
theorem test_program : after (core.run 4 ((State.reset.setCrc 0x992DB0EF).withProgram [.crcBytes [0x53]]))
    (fun t => (t.crc, t.host.agenda.length, t.host.reads)) = some (0x5FB0A94F, 0, [0x00000002, 0x00000001]) := by
  decide +kernel

/-- X18. -/
theorem test_irq : after (core.run 3 (turns [.write .w32 0x008 0x5, .write .w32 0x010 0x00, .engine] State.reset)) State.irq =
    some true := by decide +kernel

/-! ## States that meet the hypotheses of each statement, clause by clause -/

theorem holdsAt_of {s : State} {c : Nat} {bs : List Byte} (hd : s.src.disturb = none)
    (hl : c + bs.length ≤ s.src.len.toNat) (hb : ∀ i, i < bs.length → s.src.mem.read (c + i) = bs.getD i 0) :
    s.holdsAt c bs := ⟨hd, hl, hb⟩

theorem pageF_held : (holding pageF).holdsAt 0 fieldsF.image := by
  rw [test_image.1]
  exact holdsAt_of rfl (by decide) (by decide +kernel)

theorem pageZ_held : acceptingZ.holdsAt 0 fieldsZ.image := by
  rw [test_image.2]
  exact holdsAt_of rfl (by decide) (by decide +kernel)

/-- A window without a capture pattern: no offset of a source of zero bytes holds it. -/
theorem zeros_capture (n : Nat) (site : ReadSite) (o : Nat) : captureAt (zeros n) site o = false := rfl

theorem zeros_findCapture (n : Nat) : ∀ k o, findCapture (zeros n) o k = none
  | 0, _ => rfl
  | k + 1, o => by rw [findCapture, zeros_capture, if_neg (by decide), zeros_findCapture n k]

theorem zeros_scan : scan (zeros 65540) 0 = .windowEmpty ∧ scan (zeros 65539) 0 = .endOfInput := by
  have h1 : (zeros 65540).srcLen = 65540 := by decide
  have h2 : (zeros 65539).srcLen = 65539 := by decide
  constructor
  · rw [scan, zeros_findCapture, h1]
    rfl
  · rw [scan, zeros_findCapture, h2]
    rfl

theorem zeros_pageCheck (n : Nat) (h : 0 < (zeros n).srcLen) : pageCheck (zeros n) 0 = (zeros n, .rejected .capture) := by
  unfold pageCheck
  rw [if_neg (by omega), if_pos (.inr (zeros_capture n .capture 0))]

theorem zeros_pageNext (n : Nat) : exec .pageNext (zeros n) = .next (nextLoop (zeros n).srcLen (zeros n) 0) := by
  have hd : (zeros n).status.dead = false := rfl
  have hz : (zeros n).setRej RejInfo.reset = zeros n := rfl
  have hp : (zeros n).pos.toNat = 0 := rfl
  simp only [exec, execPageNext, nextFrom, hd, hz, hp, Nat.sub_zero, Bool.false_eq_true, if_false]

theorem nextLoop_windowEmpty {s : State} (n : Nat) (h : pageCheck s 0 = (s, .rejected .capture))
    (hs : scan (rejectCandidate .capture s) 0 = .windowEmpty) :
    nextLoop (n + 1) s 0 = giveUp 0 (rejectCandidate .capture s) := by
  rw [nextLoop, h]
  dsimp only
  rw [hs]

theorem giveUp_result (s : State) (c : Nat) : (giveUp c s).status.result = .corrupt := rfl

theorem zeros_corrupt : ∃ t, exec .pageNext (zeros 65540) = .next t ∧ t.status.result = .corrupt := by
  have h1 : (zeros 65540).srcLen = 65539 + 1 := by decide
  have h2 : 0 < (zeros 65540).srcLen := by rw [h1]; omega
  have h3 : scan (rejectCandidate .capture (zeros 65540)) 0 = .windowEmpty := by
    rw [scan_src (rejectCandidate_src (zeros 65540) .capture)]
    exact zeros_scan.1
  refine ⟨giveUp 0 (rejectCandidate .capture (zeros 65540)), ?_, giveUp_result _ _⟩
  rw [zeros_pageNext, h1, nextLoop_windowEmpty _ (zeros_pageCheck _ h2) h3]

theorem witness_OpcodeMapWordsDecode : ∃ (w : Word) (r r' : Row), r ∈ opcodeMap ∧ r' ∈ opcodeMap ∧
    w &&& r.mask = r.pattern ∧ w &&& r'.mask = r'.pattern :=
  ⟨0, ⟨0xFFFFFFFF, 0x00000000, fun _ => .nop⟩, ⟨0xFFFFFFFF, 0x00000000, fun _ => .nop⟩, .head _, .head _, by decide, by decide⟩

theorem witness_DecodeInvertsEncode : decode (encode (.crcByte 0xFF)) = .ok (.crcByte 0xFF) := by decide

theorem witness_IllegalWordsCompleteIllegal : State.reset.busy = false ∧ decode 0x000000FE = .error .reservedOp ∧
    decode 0x00010000 = .error .rsvdNotZero ∧ decode 0x000001FF = .error .immNotZero := by decide

theorem witness_StepRunsTheDecodedCommand : (inFlight 0x11).pending = some 0x11 ∧ decode 0x11 = .ok .pageNext ∧
    (inFlight 0x11).host.agenda = [] ∧ (turns [.engine, .wait] (inFlight 0x11)).host.agenda = .engine :: [.wait] ∧
    decode (tableWord 32 0xFF02) = .ok (.crcByte 0xFF) ∧
    (turns [.read .w32 0x00C] State.reset).host.agenda = .read .w32 0x00C :: [] ∧
    (turns [.write .w32 0x010 0x11] State.reset).host.agenda = .write .w32 0x010 0x11 :: [] ∧
    (turns [.reset] State.reset).host.agenda = .reset :: [] := by decide

theorem witness_IdleEngineStandsStill : State.reset.busy = false ∧ State.reset.host.agenda = [] ∧
    (turns [.engine] State.reset).host.agenda = .engine :: [] := by decide

theorem witness_AcceptanceStartsOneCommand : State.reset.busy = false ∧ (inFlight 0x03).busy = true := by decide

theorem witness_ResultsByCommand : ∀ i : Instr, ∃ s t, exec i s = .next t := fun i => by
  cases i <;> exact ⟨State.reset, _, rfl⟩

theorem witness_WaitPollsUntilDone : (turns [.wait] (inFlight 0x11)).busy = true ∧
    (turns [.wait] (inFlight 0x11)).host.agenda = .wait :: [] := by decide

/-- An idle WAIT after a completion goes on, and one with DONE = 0 polls again; both record what STATUS shows. -/
theorem witness_WaitPollsUntilDone_idle : ∀ p ∈ [(complete .ok (inFlight 0x00), 0x00000002, 0), (State.reset, 0x00000000, 1)],
    (turns [.wait] p.1).busy = false ∧ (turns [.wait] p.1).host.agenda = .wait :: [] ∧
    after (step (turns [.wait] p.1)) (fun t => (t.host.reads, t.host.agenda.length)) = some ([p.2.1], p.2.2) := by
  decide +kernel

/-- The offsets on either side of each border of R85, busy and idle, and the bus error that R86 gives a narrow access. -/
theorem witness_BusErrorsAreExactlyR86AndR87 :
    [0x000, 0x06C, 0x070, 0x0FC, 0x100, 0x1FC, 0x200, 0x3FC, 0x400, 0x7FC, 0x800, 0xFFC, 0x002].map
      (fun off : BitVec 12 => (resolve .w32 off).isSome) =
    [true, true, false, false, true, true, false, false, true, true, true, true, false] ∧
    resolve .w8 0x000 = none := by decide

theorem witness_RegisterMapIsR32 : resolve .w32 (BitVec.ofNat 12 (0x100 + 4 * 63)) = some (.seg 63) ∧
    resolve .w32 (BitVec.ofNat 12 (0x400 + 32 * 31 + 4 * 7)) = some (.stream 31 7) ∧
    resolve .w32 (BitVec.ofNat 12 (0x800 + 8 * 255 + 4 * 1)) = some (.pkt 255 1) := by decide

theorem witness_IdentificationRegisters : State.reset.cfg.legal = true ∧ peek State.reset (.reg .version) = 0x00000801 := by
  decide

theorem witness_ReadsHaveNoSideEffects : State.reset.busy = false := by decide

theorem witness_ReadsWhileBusyAreDraws : (inFlight 0x11).busy = true ∧
    Target.reg .status ∈ [Target.reg .id, .reg .version, .reg .ctrl, .reg .status, .reg .srcLenLo, .reg .srcLenHi] ∧
    Target.reg .posLo ∉ [Target.reg .id, .reg .version, .reg .ctrl, .reg .status, .reg .srcLenLo, .reg .srcLenHi] := by decide

theorem witness_ReadOnlyTargetsIgnoreWrites :
    (∀ r, Target.seg 63 = .reg r → r ∉ [Reg.ctrl, .status, .cmd, .crc, .posLo, .posHi, .argAddrLo, .argAddrHi, .argLen]) ∧
    ∀ r, Target.reg .id = .reg r → r ∉ [Reg.ctrl, .status, .cmd, .crc, .posLo, .posHi, .argAddrLo, .argAddrHi, .argLen] :=
  ⟨fun r h => (by cases h), fun r h => (by cases h; decide)⟩

theorem witness_BusyWritesOverrun : (inFlight 0x11).busy = true ∧ (inFlight 0x11).status.overrun = false ∧
    ∀ r ∈ [Reg.cmd, .ctrl, .crc, .posLo, .posHi, .argAddrLo, .argAddrHi, .argLen], Target.reg .status ≠ .reg r := by decide

theorem witness_IdleWritesReadBack : State.reset.busy = false ∧ Target.reg .posHi ≠ .reg .posLo ∧
    Target.reg .posHi ≠ .reg .status := by decide

theorem witness_InterruptFollowsItsCauses : ∃ s t : State, exec .nop s = .next t ∧ Instr.nop ≠ .softReset ∧
    s.ctrl.irqDoneEn = true ∧ s.busy = false ∧ ∃ u, exec .softReset s = .next u :=
  ⟨State.reset.setCtrl (Ctrl.ofWord 0x1), _, rfl, by decide, rfl, rfl, _, rfl⟩

/-- ERR falls by a W1C write, by the reset input and by SOFT_RESET. -/
theorem witness_ErrAndOverrunAreSticky : ∀ s ∈
    [(turns [.write .w32 0x00C 0x4] State.reset).setStatus ⟨true, true, false, false, false, .illegal⟩,
     (turns [.reset] State.reset).setStatus ⟨true, true, false, false, false, .illegal⟩,
     (inFlight 0xFF).setStatus ⟨true, true, false, false, false, .illegal⟩],
    s.status.err = true ∧ after (step s) (·.status.err) = some false := by decide +kernel

theorem witness_ResetInputResetsTheBlock : Target.reg .status ∉
    [Target.reg .id, .reg .version, .reg .ctrl, .reg .srcLenLo, .reg .srcLenHi] := by decide

theorem witness_SoftResetRule : Target.reg .pgInfo ∉
    [Target.reg .id, .reg .version, .reg .ctrl, .reg .status, .reg .srcLenLo, .reg .srcLenHi] := by decide

theorem witness_StreamsClearRule : ∃ t, exec .streamsClear (zeros 1) = .next t ∧ t.ctrl.contEn = true ∧
    t.cfg.legal = true := ⟨_, rfl, by decide, by decide⟩

theorem witness_IllegalWordRule : (inFlight 0x04).pending = some 0x04 ∧ decode 0x04 = .error .reservedOp := by decide

theorem witness_CrcByteRule : (0x0000FF02 : Word) &&& 0xFFFF00FF = 0x00000002 := by decide

theorem witness_CrcIsLinearAndSeesEveryBit : ([0x80, 0x00] : List Byte).length = ([0x00, 0x80] : List Byte).length ∧
    1 < ([0x80, 0x00] : List Byte).length ∧ 7 < 8 := by decide

/-- A range that just fits (K7) and one that is a byte too long (K8). -/
theorem witness_CrcRunRule :
    (holding pageA).src.disturb = none ∧
    ((holding pageA).setArgAddr 58).argAddr.toNat + (holding pageA).argLen.toNat ≤ (holding pageA).srcLen ∧
    (holding pageA).srcLen < ((holding pageA).setArgAddr 59).argAddr.toNat + (holding pageA).argLen.toNat := by decide

/-- Every check of `PageCheck` decides for some source: P13, P9, P3, N15, P2, P10, P7, P5, P4, P15. -/
theorem witness_ChecksRunInOrder :
    [holding [], holding [0x4f, 0x67, 0x67], holding (pageA.set 3 0x54), holding [0x4f, 0x67, 0x67, 0x53, 0, 0],
     holding (pageA.set 4 0x01), holding pageZ, holding (pageA.take 27), holding (pageA.take 57),
     holding (pageF.set 28 0x54)].map (fun s => (pageCheck s 0).2) =
    [.eoi, .rejected .capture, .rejected .capture, .truncated, .rejected .version, .rejected .nseg, .truncated, .truncated,
     .rejected .crc] ∧
    (pageCheck (holding pageF) 0).2 = .ok (fieldsF.page 0) := by decide +kernel

theorem witness_EveryPageIsAccepted : (fieldsF.wellFormed = true ∧ (holding pageF).holdsAt 0 fieldsF.image ∧
      (fieldsF.segs = [] → (holding pageF).ctrl.nseg0Accept = true)) ∧
    fieldsZ.wellFormed = true ∧ acceptingZ.holdsAt 0 fieldsZ.image ∧ fieldsZ.segs = [] ∧
      acceptingZ.ctrl.nseg0Accept = true :=
  ⟨⟨by decide, pageF_held, fun h => (by cases h)⟩, by decide, pageZ_held, rfl, rfl⟩

theorem witness_OnlyPagesAreAccepted : (holding pageF).src.disturb = none ∧
    ∃ t p, pageCheck (holding pageF) 0 = (t, .ok p) :=
  ⟨rfl, (pageCheck (holding pageF) 0).1, fieldsF.page 0, Prod.ext rfl witness_ChecksRunInOrder.2⟩

/-- Page F with bit 0 of its one payload byte flipped, its CRC field kept. -/
theorem witness_PayloadBitFlipIsRejected : ∃ g : PageFields, fieldsF.wellFormed = true ∧ 0 < fieldsF.payload.length ∧
    g = { fieldsF with payload := fieldsF.payload.set 0 (fieldsF.payload.getD 0 0 ^^^ (1#8 <<< 0)) } ∧
    (holding (pageF.set 28 0x54)).holdsAt 0 (g.front ++ leBytes 4 fieldsF.crc.toNat ++ g.back) := by
  refine ⟨_, by decide, by decide, rfl, ?_⟩
  have h : ({ fieldsF with payload := fieldsF.payload.set 0 (fieldsF.payload.getD 0 0 ^^^ (1#8 <<< 0)) } : PageFields).front
      ++ leBytes 4 fieldsF.crc.toNat ++
      ({ fieldsF with payload := fieldsF.payload.set 0 (fieldsF.payload.getD 0 0 ^^^ (1#8 <<< 0)) } : PageFields).back =
      pageF.set 28 0x54 := by decide +kernel
  rw [h]
  exact holdsAt_of rfl (by decide) (by decide +kernel)

/-- A memory that differs at the offset `SRC_LEN` alone. -/
theorem witness_NoByteAtOrPastTheEndIsRead : ∃ m : Memory, (holding pageF).src.disturb = none ∧
    (∀ a, a < (holding pageF).src.len.toNat → m.read a = (holding pageF).src.mem.read a) ∧
    m.read 29 ≠ (holding pageF).src.mem.read 29 ∧ ∃ t, exec .pageNext (holding pageF) = .next t :=
  ⟨Memory.write (holding pageF).src.mem 29 0x4F, rfl, by decide +kernel, by decide +kernel, _, rfl⟩

theorem witness_LacingShape : 1 < (lacing [2, 255] 0x01).1.length := by decide

theorem witness_PageCheckReportsThePage : (holding pageF).status.dead = false ∧ fieldsF.wellFormed = true ∧
    (holding pageF).holdsAt (holding pageF).pos.toNat fieldsF.image ∧
    (fieldsF.segs = [] → (holding pageF).ctrl.nseg0Accept = true) :=
  ⟨rfl, by decide, pageF_held, fun h => (by cases h)⟩

theorem witness_PageCheckWithoutAPage :
    [holding (pageA.set 3 0x54), holding (pageF.set 28 0x54), holding [], holding (pageA.take 57)].map
      (fun s => (s.status.dead, (pageCheck (s.setRej ⟨0, none⟩) s.pos.toNat).2)) =
    [(false, .rejected .capture), (false, .rejected .crc), (false, .eoi), (false, .truncated)] := by decide +kernel

/-- A pass that accepts, one that finds the next candidate, one that ends the source and one that empties the window. -/
theorem witness_PageNextLoopIsR166 : (holding pageF).status.dead = false ∧
    (pageCheck (holding pageF) 0).2 = .ok (fieldsF.page 0) ∧ (pageCheck afterXyz 0).2 = .rejected .capture ∧
    scan afterXyz 0 = .found 3 ∧ scan (zeros 65539) 0 = .endOfInput ∧ scan (zeros 65540) 0 = .windowEmpty ∧
    pageCheck (zeros 65540) 0 = (zeros 65540, .rejected .capture) :=
  ⟨rfl, witness_ChecksRunInOrder.2, by decide +kernel, by decide +kernel, zeros_scan.2, zeros_scan.1,
    zeros_pageCheck _ (by decide)⟩

theorem witness_ScanFindsTheFirstCapture : scan afterXyz 0 = .found 3 ∧ scan (zeros 65539) 0 = .endOfInput ∧
    scan (zeros 65540) 0 = .windowEmpty := ⟨by decide +kernel, zeros_scan.2, zeros_scan.1⟩

theorem witness_PageNextRecoversAfterGarbage : afterXyz.status.dead = false ∧ fieldsF.wellFormed = true ∧
    afterXyz.holdsAt (afterXyz.pos.toNat + 3) fieldsF.image ∧ (fieldsF.segs = [] → afterXyz.ctrl.nseg0Accept = true) ∧
    3 ≤ 65536 ∧ ∀ x, x < 3 → ¬ afterXyz.holdsAt (afterXyz.pos.toNat + x) capturePattern := by
  refine ⟨rfl, by decide, ?_, fun h => (by cases h), by decide, fun x hx h => ?_⟩
  · rw [test_image.1]
    exact holdsAt_of rfl (by decide) (by decide +kernel)
  · have h0 : afterXyz.src.mem.read x = 0x4F := by
      have := h.2.2 0 (by decide)
      rw [show afterXyz.pos.toNat = 0 from rfl] at this
      simpa [capturePattern] using this
    exact (by decide +kernel : ∀ x, x < 3 → afterXyz.src.mem.read x ≠ 0x4F) x hx h0

/-- Page F at the last offset of the window, after 65536 zero bytes (N7). -/
def lateF : State := State.reset.setSrc ⟨65565, Memory.ofCells 65565 (cellsAt 65536 pageF) [], none⟩

theorem witness_PageNextRecoversAfterGarbage_last_offset : lateF.status.dead = false ∧ fieldsF.wellFormed = true ∧
    lateF.holdsAt (lateF.pos.toNat + 65536) fieldsF.image ∧ (fieldsF.segs = [] → lateF.ctrl.nseg0Accept = true) ∧
    ∀ x, x < 65536 → ¬ lateF.holdsAt (lateF.pos.toNat + x) capturePattern := by
  refine ⟨rfl, by decide, ?_, fun h => (by cases h), fun x hx h => ?_⟩
  · rw [test_image.1]
    exact holdsAt_of rfl (by decide) (by decide +kernel)
  · have h0 : lateF.src.mem.read x = 0x4F := by
      have := h.2.2 0 (by decide)
      rw [show lateF.pos.toNat = 0 from rfl] at this
      simpa [capturePattern] using this
    have h1 : Memory.wfFrom 65536 lateF.src.mem = true := by decide +kernel
    rw [Memory.read_below h1 hx] at h0
    exact absurd h0 (by decide)

/-- PAGE_NEXT ends with OK, with EOI after a rejection, with TRUNCATED and with CORRUPT. -/
theorem witness_WasteCountsBytesPassedOver : (afterXyz.srcLen < 2 ^ 64 ∧ (zeros 65540).srcLen < 2 ^ 64) ∧
    after (exec .pageNext afterXyz) (·.status.result) = some .ok ∧
    after (exec .pageNext (holding [0x78, 0x79, 0x7a])) (·.status.result) = some .eoi ∧
    after (exec .pageNext (holding [0x78, 0x4f, 0x67, 0x67, 0x53, 0, 0])) (·.status.result) = some .truncated ∧
    (∃ t, exec .pageNext (zeros 65540) = .next t ∧ t.status.result = .corrupt) ∧
    Instr.nop ≠ .pageNext ∧ Instr.nop ≠ .wasteClear ∧ Instr.nop ≠ .softReset :=
  ⟨⟨by decide, by decide⟩, by decide +kernel, by decide +kernel, by decide +kernel, zeros_corrupt, by decide, by decide,
    by decide⟩

theorem witness_PosAfterPageCommands :
    (State.reset.setStatus ⟨false, false, false, true, true, .corrupt⟩).status.dead = true ∧
    State.reset.status.dead = false ∧ State.reset.srcLen < 2 ^ 64 ∧
    after (exec .pageCheck (holding pageF)) (·.status.result) = some .ok ∧
    after (exec .pageCheck (holding pageZ)) (·.status.result) = some .rejNseg ∧
    after (exec .pageNext State.reset) (·.status.result) = some .eoi ∧ State.reset.srcLen ≤ State.reset.pos.toNat :=
  ⟨rfl, rfl, by decide, by decide +kernel, by decide +kernel, by decide +kernel, by decide⟩

theorem witness_CorruptStreamLatches : (∃ t, exec .pageNext (zeros 65540) = .next t ∧ t.status.result = .corrupt) ∧
    (zeros 65540).status.dead = false ∧ (zeros 65540).src.disturb = none ∧
    (State.reset.setStatus ⟨false, false, false, true, true, .corrupt⟩).status.dead = true ∧ State.reset.busy = false :=
  ⟨zeros_corrupt, rfl, rfl, rfl, rfl⟩

/-- Page registers change on OK, and the slots too: by PAGE_CHECK, and back by STREAMS_CLEAR. -/
theorem witness_PageStateChangesOnlyOnOk : after (exec .pageCheck (holding pageF)) (fun t => (t.pg.len, (t.slotAt 0).valid)) =
    some (29, true) ∧ ((holding pageF).pg.len, ((holding pageF).slotAt 0).valid) = (0, false) := by decide +kernel

theorem witness_PageCommandsFrame : (∃ t, exec .pageCheck (holding pageF) = .next t) ∧
    ∃ t, exec .pageNext (holding pageF) = .next t := ⟨⟨_, rfl⟩, ⟨_, rfl⟩⟩

theorem witness_ResyncMarksTheFirstPageRecovered : afterXyz.status.dead = false ∧
    after (exec .pageNext afterXyz) (fun t => (t.status.result, t.rej.count)) = some (.ok, 1) ∧
    after (exec .pageCheck (holding pageZ)) (fun t => (t.status.result, t.rej.count)) = some (.rejNseg, 1) :=
  ⟨rfl, by decide +kernel, by decide +kernel⟩

/-- Slot 0 tracks serial 0x33; slot 1 is free. -/
def tracking : State :=
  (holding pageF).setSlots ((Vector.replicate 32 Slot.zero).set 0 ⟨0x33, 0xFFFFFFFF, 6, true, true, false⟩)

theorem tracking_consistent : slotsConsistent tracking.cfg.streamSlots tracking.slots := by
  refine ⟨?_, ?_, ?_⟩ <;> decide +kernel

theorem witness_ContinuityOfATrackedSerial : slotsConsistent tracking.cfg.streamSlots tracking.slots ∧
    tracking.ctrl.contEn = true ∧ tracking.slots[(0 : Fin 32)].valid = true ∧
    tracking.slots[(0 : Fin 32)].serial = (fieldsF.page 0).serial := ⟨tracking_consistent, by decide +kernel⟩

theorem witness_ContinuityOfANewSerial : tracking.ctrl.contEn = true ∧
    (∀ i : Fin 32, i.val < tracking.cfg.streamSlots → tracking.slots[i].valid = true →
      tracking.slots[i].serial ≠ (fieldsZ.page 0).serial) ∧
    (1 : Fin 32).val < tracking.cfg.streamSlots ∧ tracking.slots[(1 : Fin 32)].valid = false ∧
    ∀ i : Fin 32, i < 1 → tracking.slots[i].valid = true := by decide +kernel

/-- One slot, taken by another serial (N6). -/
def fullTable : State :=
  { holding pageF with
    cfg := ⟨1, 0⟩
    slots := (Vector.replicate 32 Slot.zero).set 0 ⟨0x04030201, 0, 0, true, true, false⟩ }

/-- The same table, page F after garbage. -/
def fullTableLater : State := { fullTable with src := afterXyz.src }

theorem witness_ContinuityWithoutASlot_full : ∃ t p, fullTable.status.dead = false ∧ fullTable.ctrl.contEn = true ∧
    pageCheck (fullTable.setRej ⟨0, none⟩) fullTable.pos.toNat = (t, .ok p) ∧
    ∀ i : Fin 32, i.val < fullTable.cfg.streamSlots → fullTable.slots[i].valid = true ∧ fullTable.slots[i].serial ≠ p.serial :=
  ⟨(pageCheck (fullTable.setRej ⟨0, none⟩) 0).1, fieldsF.page 0, rfl, rfl, Prod.ext rfl (by decide +kernel),
    by decide +kernel⟩

/-- Page F accepted at POS by either page command, and past POS by PAGE_NEXT; by R52, R173 and R175 PG_INFO has its packet
count, STREAM_FULL and CONT_CHECKED, and RESYNC where it was recovered. -/
theorem witness_ContinuityWithoutASlot_fullAfter :
    ∀ q ∈ [(Instr.pageCheck, fullTable, 0x00600001), (.pageNext, fullTable, 0x00600001), (.pageNext, fullTableLater, 0x00620001)],
      q.2.1.ctrl.contEn = true ∧
      after (exec q.1 q.2.1) (fun t => (t.status.result, t.pg.serial, t.pg.info.toWord)) = some (.ok, 0x33, q.2.2) ∧
      ∀ i : Fin 32, i.val < q.2.1.cfg.streamSlots → q.2.1.slots[i].valid = true ∧ q.2.1.slots[i].serial ≠ 0x33 := by
  decide +kernel

/-- Page F in a state that tracks its serial, the checks disabled. -/
def unchecked : State := tracking.setCtrl (Ctrl.ofWord 0x0)

/-- As in N13, `PG_INFO` is its packet count alone, and the slot that tracks the serial keeps its sequence number. -/
theorem witness_ContinuityWithoutASlot_disabled : unchecked.ctrl.contEn = false ∧
    ∀ i ∈ [Instr.pageCheck, .pageNext],
      after (exec i unchecked) (fun t => (t.status.result, t.pg.info.toWord, t.slots[(0 : Fin 32)].lastSeq)) =
        some (.ok, 0x00000001, 0xFFFFFFFF) := by decide +kernel

theorem witness_TheBlockNeverWritesTheSource : after (step (turns [.attach 1 [(0, 0x4F)]] State.reset)) (fun t => t.src.len) =
    some 1 ∧ (∃ t, exec .pageNext State.reset = .next t) := ⟨by decide +kernel, _, rfl⟩

/-- A host about to attach one byte. -/
def attaching (s : State) : State := turns [.attach 1 [(0, 0x4F)]] s

/-- A source attached while idle, and one attached while busy that differs in length, or in a byte alone; there is one
disturbance of the lengths it had, none while idle. -/
theorem witness_SourceChangesWhileBusyAreDraws :
    (∀ s ∈ [State.reset, inFlight 0x11, (zeros 1).setPending (some 0x11)],
      (attaching s).host.agenda = .attach 1 [(0, 0x4F)] :: [] ∧ (attaching s).src.disturb = none) ∧
    [State.reset, inFlight 0x11, (zeros 1).setPending (some 0x11)].map
        (fun s => after (step (attaching s)) fun t => (t.src, t.busy)) =
      [some (⟨1, [(0, 0x4F)], none⟩, false), some (⟨1, [(0, 0x4F)], some ⟨0, 0, 1⟩⟩, true),
        some (⟨1, [(0, 0x4F)], some ⟨0, 1, 1⟩⟩, true)] := by decide +kernel

/-- A second change within one command: lengths 2, 5 and 3 leave the range from 2 to 5, and the second draw number. -/
theorem witness_SourceChangesWhileBusyAreDraws_again :
    after (core.run 2 (turns [.attach 5 [], .attach 3 []] ((zeros 2).setPending (some 0x11)))) (fun t => t.src.disturb) =
      some (some ⟨1, 2, 5⟩) := by decide +kernel

/-- The very same bytes attached while busy, the source undisturbed or disturbed before. -/
theorem witness_SourceChangesWhileBusyAreDraws_same : ∀ d ∈ [none, some (Disturb.mk 0 1 4)],
    after (step (turns [.attach 2 []] (((zeros 2).setPending (some 0x11)).setSrc ⟨2, [], d⟩)))
      (fun t => (t.src.len, t.src.mem, t.busy, t.src.disturb)) = some (2, [], true, d) := by decide +kernel

/-- A step from a state that meets the invariant, with a memory that lists bytes and a slot in use. -/
theorem witness_EveryStepKeepsTheInvariant : tracking.Inv ∧ ∃ t, step tracking = .next t := by
  refine ⟨⟨by decide, ⟨by decide +kernel, fun d hd => (by cases hd)⟩, .inl rfl, tracking_consistent,
    fun h => (by cases h), fun h => (by cases h), by decide⟩, _, rfl⟩

end Sys2Proof.Tests
end

section
/-! SUPPORT. What keeps the tables of an accepted page and the stream table consistent (R54 to R56, R61). -/

namespace Sys2Proof.Machine

theorem segTable_take {segs : List Byte} (h : segs.length ≤ 255) : (segTable segs).toList.take segs.length = segs := by
  apply List.ext_getElem
  · simp only [List.length_take, Vector.length_toList]; omega
  · intro i h1 h2
    simp [segTable, h2]

/-- The page registers of an accepted candidate agree with one another (R61). -/
theorem Accepted.pageRegs_consistent {s t : State} {c : Nat} {p : Page} (h : Accepted s c t p) (lostSync : Bool)
    (k : Continuity) : (pageRegs p lostSync k).consistent := by
  have hsegs : p.segs.length ≤ 255 := h.nseg ▸ h.few
  have hpk : (lacing p.segs p.flags).1.length ≤ p.segs.length := lacing_length_le _ _
  have hlen := h.len_le
  have hsum := h.len
  have hcount : (pageRegs p lostSync k).info.pktCount.toNat = (lacing p.segs p.flags).1.length :=
    Nat.mod_eq_of_lt (by omega)
  have hnseg : (pageRegs p lostSync k).nseg.toNat = p.nseg := Nat.mod_eq_of_lt (by have := h.few; omega)
  have hplen : (pageRegs p lostSync k).payloadLen.toNat = p.plen := Nat.mod_eq_of_lt (by omega)
  have hlenReg : (pageRegs p lostSync k).len.toNat = p.len := Nat.mod_eq_of_lt (by omega)
  refine .inr ⟨by omega, by omega, ?_, h.version, fun i hi => ?_, fun i hi => ?_⟩
  · rw [hplen, hnseg, h.nseg, h.plen]
    exact congrArg segSum (segTable_take hsegs).symm
  · rw [PageRegs.segByte_segTable (p := pageRegs p lostSync k) hsegs rfl]
    exact List.getD_eq_default _ _ (by rw [← h.nseg]; omega)
  · rw [PageRegs.pktEntry_pktTable (p := pageRegs p lostSync k) (Nat.le_trans hpk hsegs) rfl]
    exact List.getD_eq_default _ _ (by rw [List.length_map]; omega)

theorem slotsConsistent_cleared (n : Nat) : slotsConsistent n (Vector.replicate 32 Slot.zero) := by
  have hz : ∀ i : Fin 32, (Vector.replicate 32 Slot.zero)[i] = Slot.zero := fun i => by simp
  refine ⟨fun i _ => hz i, fun i _ => hz i, fun i _ hi => ?_⟩
  rw [hz i] at hi
  cases hi

theorem getElem_set_fin (slots : Vector Slot 32) (i j : Fin 32) (x : Slot) :
    (slots.set i x)[j] = if j = i then x else slots[j] := by
  by_cases h : j = i
  · subst h; simp
  · have : i.val ≠ j.val := fun hv => h (Fin.ext hv.symm)
    simp [h, Vector.getElem_set_ne _ _ this]

/-- Putting a valid entry whose serial no other slot holds in a slot that exists keeps the stream table consistent. -/
theorem slotsConsistent_set {n : Nat} {slots : Vector Slot 32} (h : slotsConsistent n slots) {i : Fin 32} (hi : i.val < n)
    {x : Slot} (hx : x.valid = true)
    (hother : ∀ j : Fin 32, j ≠ i → slots[j].valid = true → slots[j].serial ≠ x.serial) :
    slotsConsistent n (slots.set i x) := by
  obtain ⟨habsent, hinvalid, hserial⟩ := h
  refine ⟨fun j hj => ?_, fun j hj => ?_, fun j k hj hk hjk => ?_⟩
  · have hji : j ≠ i := fun e => by subst e; omega
    rw [getElem_set_fin, if_neg hji]
    exact habsent j hj
  · by_cases hji : j = i
    · rw [getElem_set_fin, if_pos hji, hx] at hj
      cases hj
    · rw [getElem_set_fin, if_neg hji] at hj ⊢
      exact hinvalid j hj
  · by_cases hji : j = i <;> by_cases hki : k = i
    · rw [hji, hki]
    · simp only [getElem_set_fin, hji, hki, if_true, if_false] at hk hjk
      exact absurd hjk.symm (hother k hki hk)
    · simp only [getElem_set_fin, hji, hki, if_true, if_false] at hj hjk
      exact absurd hjk (hother j hji hj)
    · simp only [getElem_set_fin, hji, hki, if_false] at hj hk hjk
      exact hserial j k hj hk hjk

/-- Whichever way a page is tracked, the stream table stays consistent (R171 to R173). -/
theorem slotsConsistent_track {n : Nat} {slots : Vector Slot 32} (h : slotsConsistent n slots) (p : Page) :
    slotsConsistent n (track n slots p).1 := by
  have ⟨habsent, _, hserial⟩ := h
  rcases track_cases n slots p with ⟨i, hi, ht⟩ | ⟨hnone, j, hj, ht⟩ | ⟨-, -, ht⟩ <;> rw [ht]
  · obtain ⟨hin, hvalid, -⟩ := trackedSlot_some hi
    exact slotsConsistent_set h hin hvalid fun j hji hv hs => hji (hserial j i hv hvalid hs)
  · refine slotsConsistent_set h (freeSlot_some hj).1 rfl fun k _ hv => ?_
    have hkn : k.val < n := Nat.lt_of_not_le fun hle => by rw [habsent k hle] at hv; cases hv
    exact trackedSlot_none hnone k hkn hv
  · exact h

theorem slotsConsistent_continuity {s : State} (h : slotsConsistent s.cfg.streamSlots s.slots) (p : Page) :
    slotsConsistent s.cfg.streamSlots (continuity s p).1 := by
  unfold continuity
  split
  · exact slotsConsistent_track h p
  · exact h

end Sys2Proof.Machine
end

section
/-! SUPPORT. Each operation keeps the invariant; so does each command, each turn and each step (R61). -/

namespace Sys2Proof.Machine

/-! The updates of one field -/

namespace State.Inv

variable {s : State} (h : s.Inv)
include h

theorem setHost (v : HostSide) : (s.setHost v).Inv := ⟨h.cfg, h.source, h.page, h.slots, h.done, h.dead, h.rej⟩
theorem setCtrl (v : Ctrl) : (s.setCtrl v).Inv := ⟨h.cfg, h.source, h.page, h.slots, h.done, h.dead, h.rej⟩
theorem setCrc (v : Word) : (s.setCrc v).Inv := ⟨h.cfg, h.source, h.page, h.slots, h.done, h.dead, h.rej⟩
theorem setPos (v : DWord) : (s.setPos v).Inv := ⟨h.cfg, h.source, h.page, h.slots, h.done, h.dead, h.rej⟩
theorem setArgAddr (v : DWord) : (s.setArgAddr v).Inv := ⟨h.cfg, h.source, h.page, h.slots, h.done, h.dead, h.rej⟩
theorem setArgLen (v : Word) : (s.setArgLen v).Inv := ⟨h.cfg, h.source, h.page, h.slots, h.done, h.dead, h.rej⟩
theorem setWaste (v : DWord) : (s.setWaste v).Inv := ⟨h.cfg, h.source, h.page, h.slots, h.done, h.dead, h.rej⟩
theorem setCrcPair (v : CrcPair) : (s.setCrcPair v).Inv := ⟨h.cfg, h.source, h.page, h.slots, h.done, h.dead, h.rej⟩

theorem setSrc {v : Source} (hv : (s.setSrc v).sourceConsistent) : (s.setSrc v).Inv :=
  ⟨h.cfg, hv, h.page, h.slots, h.done, h.dead, h.rej⟩

theorem setRej {v : RejInfo} (hv : v.count = 0 ↔ v.last = none) : (s.setRej v).Inv :=
  ⟨h.cfg, h.source, h.page, h.slots, h.done, h.dead, hv⟩

theorem setPg {v : PageRegs} (hv : v.consistent) : (s.setPg v).Inv :=
  ⟨h.cfg, h.source, hv, h.slots, h.done, h.dead, h.rej⟩

theorem setSlots {v : Vector Slot 32} (hv : slotsConsistent s.cfg.streamSlots v) : (s.setSlots v).Inv :=
  ⟨h.cfg, h.source, h.page, hv, h.done, h.dead, h.rej⟩

theorem setStatus {v : Status} (hdone : s.busy = true → v.done = false) (hdead : v.dead = true → v.lostSync = true) :
    (s.setStatus v).Inv :=
  ⟨h.cfg, h.source, h.page, h.slots, hdone, hdead, h.rej⟩

/-! The shared operations -/

/-- An idle block owes nothing about `DONE`, and its source is undisturbed once settled. -/
theorem complete (code : ResultCode) : (complete code s).Inv :=
  ⟨h.cfg, ⟨h.source.1, nofun⟩, h.page, h.slots, nofun, h.dead, h.rej⟩

theorem accept (hidle : s.busy = false) (w : Word) : (accept w s).Inv := by
  have hcalm : ∀ d, s.src.disturb ≠ some d := fun d hd => by
    have := (h.source.2 d hd).1
    rw [hidle] at this
    cases this
  exact ⟨h.cfg, ⟨h.source.1, fun d hd => absurd hd (hcalm d)⟩, h.page, h.slots, fun _ => rfl, h.dead, h.rej⟩

theorem overrun : (overrun s).Inv := h.setStatus h.done h.dead

theorem acknowledge (v : Word) : (acknowledge v s).Inv :=
  h.setStatus (fun hb => by rw [Status.w1c_done, h.done hb, Bool.false_and]) h.dead

theorem undead : (s.setStatus s.status.undead).Inv := h.setStatus h.done nofun

theorem cleared : s.cleared.Inv := h.setRej (by decide)

theorem blockReset : (blockReset s).Inv :=
  ⟨h.cfg, h.source, .inl rfl, slotsConsistent_cleared _, fun _ => rfl, nofun, iff_of_true rfl rfl⟩

theorem resetInput : (resetInput s).Inv :=
  ⟨h.cfg, ⟨h.source.1, nofun⟩, .inl rfl, slotsConsistent_cleared _, nofun, nofun, iff_of_true rfl rfl⟩

/-- A change while busy leaves a range that holds the new length; without a change the source is as it was (R84). -/
theorem attach_disturb {len : DWord} {cells : List Host.Cell} {epoch : Nat} {d : Disturb}
    (hd : (s.src.attach s.busy epoch len cells).disturb = some d) : s.busy = true ∧ d.lo ≤ d.hi ∧ d.hi < 2 ^ 64 := by
  simp only [Source.attach] at hd
  split at hd
  · next hc =>
    have hlen := len.isLt
    have hold := s.src.len.isLt
    cases Option.some.inj hd
    refine ⟨(Bool.and_eq_true _ _ ▸ hc).1, ?_⟩
    cases hs : s.src.disturb with
    | none => simp only [Disturb.widen]; omega
    | some e =>
      have := (h.source.2 e hs).2
      simp only [Disturb.widen]
      omega
  · exact h.source.2 d hd

theorem attachSource (len : DWord) (cells : List Host.Cell) : (attachSource len cells s).Inv :=
  (h.setSrc ⟨Source.attach_wf _ _ _ _ _, fun _ => h.attach_disturb⟩).setHost _

theorem readTarget (g : Target) : (readTarget g s).Inv := by
  rcases readTarget_cases g s with ⟨he, -⟩ | ⟨he, -⟩ <;> rw [he]
  · exact (h.setHost _).setHost _
  · exact h.setHost _

theorem hostWait : (hostWait s).Inv := by
  obtain ⟨l, hl⟩ := hostWait_eq s
  rw [hl]
  exact (h.setHost _).setHost _

theorem written {v : Word} {t : State} (hw : Written v s t) : t.Inv := by
  cases hw with
  | ignored => exact h
  | acknowledged => exact h.acknowledge v
  | overrun => exact h.overrun
  | ctrl => exact h.setCtrl _
  | accepted hb => exact h.accept hb v
  | crc => exact h.setCrc _
  | pos _ p => exact (h.setPos p).undead
  | argAddr _ a => exact h.setArgAddr a
  | argLen => exact h.setArgLen v

/-! The page commands -/

theorem seekTo (n : Nat) : (seekTo n s).Inv := h.setPos _

theorem addWaste (n : Nat) : (addWaste n s).Inv := h.setWaste _

theorem pageCheck {t : State} {c : Nat} {v : Verdict} (hc : pageCheck s c = (t, v)) : t.Inv := by
  have ht : t = (Machine.pageCheck s c).1 := by rw [hc]
  rcases pageCheck_state s c with he | ⟨pair, he⟩ <;> rw [ht, he]
  · exact h
  · exact h.setCrcPair pair

theorem rejectCandidate (r : Rejection) : (rejectCandidate r s).Inv :=
  (h.setStatus (v := s.status.withLostSync true) h.done fun _ => rfl).setRej (v := s.rej.add r)
    ⟨fun h0 => absurd h0 (RejInfo.add_count_ne_zero r _), nofun⟩

/-- Accepting a page clears LOST_SYNC, so `DEAD` must not be set (R169). -/
theorem finishPage {u : State} {c : Nat} {p : Page} (ha : Accepted u c s p) (hdead : s.status.dead = false) :
    (finishPage p s).Inv := by
  have hpg := h.setPg (ha.pageRegs_consistent s.status.lostSync (continuity s p).2)
  have hslots := hpg.setSlots (v := (continuity s p).1) (slotsConsistent_continuity h.slots p)
  have hstatus := hslots.setStatus (v := s.status.withLostSync false) h.done fun hd =>
    by rw [Status.withLostSync_dead, hdead] at hd; cases hd
  exact (hstatus.seekTo _).complete .ok

/-- `DEAD` is set where a rejection has set LOST_SYNC (R169). -/
theorem deaden (hlost : s.status.lostSync = true) : (s.setStatus s.status.deaden).Inv :=
  h.setStatus h.done fun _ => hlost

theorem giveUp (hlost : s.status.lostSync = true) (c : Nat) : (giveUp c s).Inv :=
  (((h.addWaste _).seekTo _).deaden (by rwa [seekTo_status, addWaste_status])).complete .corrupt

end State.Inv

theorem Resynced.inv {s u : State} {c d : Nat} (hr : Resynced s c u d) (h : s.Inv) : u.Inv := by
  induction hr with
  | here s c => exact h
  | further hc _ _ ih => exact ih (((h.pageCheck hc).rejectCandidate _).addWaste _)

theorem LoopEnd.inv {u t : State} {d : Nat} (he : LoopEnd u d t) (h : u.Inv) (hdead : u.status.dead = false) : t.Inv := by
  cases he with
  | accepted hc => exact (h.pageCheck hc).finishPage (pageCheck_ok hc) ((pageCheck_same hc).1.dead.trans hdead)
  | ended => exact h.complete .eoi
  | truncated hc => exact ((h.pageCheck hc).seekTo _).complete .truncated
  | exhausted hc => exact ((((h.pageCheck hc).rejectCandidate _).addWaste _).seekTo _).complete .eoi
  | corrupt hc => exact ((h.pageCheck hc).rejectCandidate _).giveUp rfl d

/-! Commands, turns and steps -/

theorem Executed.inv {i : Instr} {s t : State} (he : Executed s i t) (h : s.Inv) : t.Inv := by
  cases he with
  | nop => exact h.complete .ok
  | crcClear => exact (h.setCrc _).complete .ok
  | crcByte b => exact (h.setCrc _).complete .ok
  | crcRun => exact (h.setCrc _).complete .ok
  | crcRunShort => exact h.complete .truncated
  | checkDead => exact h.complete .eoi
  | checkOk hd hc => exact (h.cleared.pageCheck hc).finishPage (pageCheck_ok hc) ((pageCheck_same hc).1.dead.trans hd)
  | checkEoi => exact h.cleared.complete .eoi
  | checkTruncated _ hc => exact (h.cleared.pageCheck hc).complete .truncated
  | checkRejected _ hc => exact ((h.cleared.pageCheck hc).rejectCandidate _).complete _
  | nextDead => exact h.complete .eoi
  | next hd hr hend => exact hend.inv (hr.inv h.cleared) (hr.same.dead.trans hd)
  | wasteClear => exact (h.setWaste 0).complete .ok
  | streamsClear => exact (h.setSlots (slotsConsistent_cleared _)).complete .ok
  | softReset => exact h.blockReset.complete .ok

theorem Engine.inv {s t : State} (he : Engine s t) (h : s.Inv) : t.Inv := by
  cases he with
  | idle => exact h
  | command _ _ he => exact he.inv h
  | illegal => exact h.complete .illegal

theorem Turned.inv {turn : Turn} {s t : State} (ht : Turned s turn t) (h : s.Inv) : t.Inv := by
  cases ht with
  | read => exact h.readTarget _
  | write => exact h.written (writeTarget_cases _ _ _)
  | wait => exact h.hostWait
  | engine he => exact he.inv h
  | attach => exact h.attachSource _ _
  | reset => exact h.resetInput

/-- Settles O60: each operation keeps the invariant, so each turn and the engine's step do. -/
theorem everyStepKeepsTheInvariant : Obligations.EveryStepKeepsTheInvariant := by
  intro s t h hstep
  rcases step_next hstep with ⟨-, he⟩ | ⟨turn, rest, -, ht⟩
  · exact he.inv h
  · exact ht.inv (h.setHost _)

/-- Settles O59: at reset the source, the page registers and the stream table are empty, and nothing was rejected. -/
theorem invariantHoldsAtReset : Obligations.InvariantHoldsAtReset :=
  ⟨by decide, ⟨rfl, nofun⟩, .inl rfl, slotsConsistent_cleared _, fun _ => rfl, nofun,
    by decide⟩

end Sys2Proof.Machine
end

section
/-! SUPPORT. Reading one field back from a register made of fields, and masking a field. -/

namespace Sys2Proof.Machine

/-- A field reads back from its own place. -/
@[simp] theorem extractLsb'_field {lo n : Nat} (v : BitVec n) (h : lo + n ≤ 32) : (field lo v).extractLsb' lo n = v := by
  apply BitVec.eq_of_getLsbD_eq
  intro i hi
  rw [BitVec.getLsbD_extractLsb', getLsbD_field]
  simp [hi, show lo + i < 32 by omega]

/-- A field puts 0 in every place apart from its own. -/
@[simp] theorem extractLsb'_field_of_disjoint {lo n a m : Nat} (v : BitVec n) (h : a + m ≤ lo ∨ lo + n ≤ a) :
    (field lo v).extractLsb' a m = 0 := by
  apply BitVec.eq_of_getLsbD_eq
  intro i hi
  rw [BitVec.getLsbD_extractLsb', getLsbD_field]
  rcases h with h | h
  · simp [show a + i < lo by omega]
  · simp [BitVec.getLsbD_of_ge v (a + i - lo) (by omega)]

@[simp] theorem extractLsb'_flag_of_disjoint {lo a m : Nat} (b : Bool) (h : a + m ≤ lo ∨ lo + 1 ≤ a) :
    (flag lo b).extractLsb' a m = 0 := extractLsb'_field_of_disjoint _ h

@[simp] theorem getElem_flag (lo : Nat) (b : Bool) {i : Nat} (hi : i < 32) :
    (flag lo b)[i] = (decide (i = lo) && b) := by
  rw [← BitVec.getLsbD_eq_getElem, getLsbD_flag]
  simp [hi]

@[simp] theorem getElem_field_of_disjoint {lo n i : Nat} (v : BitVec n) (hi : i < 32) (h : i < lo ∨ lo + n ≤ i) :
    (field lo v)[i] = false := by
  rw [← BitVec.getLsbD_eq_getElem, getLsbD_field]
  rcases h with h | h
  · simp [h]
  · simp [BitVec.getLsbD_of_ge v (i - lo) (by omega)]

/-- A mask applied to a field masks the field's value. -/
theorem field_and {lo n : Nat} (v : BitVec n) (w : Word) : field lo v &&& w = field lo (v &&& w.extractLsb' lo n) := by
  apply BitVec.eq_of_getLsbD_eq
  intro i hi
  simp only [BitVec.getLsbD_and, getLsbD_field, BitVec.getLsbD_extractLsb']
  by_cases h : i < lo
  · simp [h]
  · have hi' : lo + (i - lo) = i := by omega
    by_cases hn : i - lo < n
    · simp [h, hn, hi', Bool.and_assoc]
    · simp [BitVec.getLsbD_of_ge v (i - lo) (by omega)]

theorem flag_and {lo : Nat} (b : Bool) (w : Word) : flag lo b &&& w = flag lo (b && w.getLsbD lo) := by
  apply BitVec.eq_of_getLsbD_eq
  intro i hi
  simp only [BitVec.getLsbD_and, getLsbD_flag]
  by_cases h : i = lo <;> simp [h, Bool.and_assoc]

end Sys2Proof.Machine
end

section
/-! SUPPORT. What the host reads in each register and window word, field by field (R33 to R56), and where it stands (R32). -/

namespace Sys2Proof.Machine

/-! Where each register and window word stands (R32, R85) -/

theorem resolve_ofNat {n : Nat} (hn : n < 4096) (h4 : n % 4 = 0) : resolve .w32 (BitVec.ofNat 12 n) = targetAt n := by
  have hto : (BitVec.ofNat 12 n).toNat = n := Nat.mod_eq_of_lt hn
  simp [resolve, hto, h4]

theorem resolve_regOffset (r : Reg) : resolve .w32 r.offset = some (.reg r) := by
  cases r <;> rfl

theorem targetAt_seg {k : Nat} (hk : k < 64) : targetAt (0x100 + 4 * k) = some (.seg k) := by
  unfold targetAt
  rw [if_neg (by omega), if_neg (by omega), if_pos (by omega), show (0x100 + 4 * k - 0x100) / 4 = k by omega]

theorem targetAt_stream {i k : Nat} (hi : i < 32) (hk : k < 8) :
    targetAt (0x400 + 32 * i + 4 * k) = some (.stream i k) := by
  unfold targetAt
  rw [if_neg (by omega), if_neg (by omega), if_neg (by omega), if_neg (by omega), if_pos (by omega),
    show (0x400 + 32 * i + 4 * k - 0x400) / 32 = i by omega,
    show (0x400 + 32 * i + 4 * k - 0x400) % 32 / 4 = k by omega]

theorem targetAt_pkt {i k : Nat} (hk : k < 2) : targetAt (0x800 + 8 * i + 4 * k) = some (.pkt i k) := by
  unfold targetAt
  rw [if_neg (by omega), if_neg (by omega), if_neg (by omega), if_neg (by omega), if_neg (by omega),
    show (0x800 + 8 * i + 4 * k - 0x800) / 8 = i by omega,
    show (0x800 + 8 * i + 4 * k - 0x800) % 8 / 4 = k by omega]

theorem Reg.offset_of_all_getElem? {k : Nat} {r : Reg} (h : Reg.all[k]? = some r) : r.offset.toNat = 4 * k := by
  have hall : ∀ k : Fin Reg.all.length, Reg.all[k].offset.toNat = 4 * k.val := by decide
  obtain ⟨hk, rfl⟩ := List.getElem?_eq_some_iff.1 h
  exact hall ⟨k, hk⟩

/-- A register stands at its own offset alone, and only a 32-bit access reaches it (R32, R86). -/
theorem eq_of_resolve_reg {width : Width} {off : BitVec 12} {r : Reg} (h : resolve width off = some (.reg r)) :
    width = .w32 ∧ off = r.offset := by
  unfold resolve at h
  split at h
  · next haccess =>
    obtain ⟨hwidth, halign⟩ := haccess
    refine ⟨hwidth, BitVec.eq_of_toNat_eq ?_⟩
    unfold targetAt at h
    split at h
    · obtain ⟨r', hr', he⟩ := Option.map_eq_some_iff.1 h
      cases he
      have := Reg.offset_of_all_getElem? hr'
      omega
    · split_ifs at h <;> cases h
  · cases h

/-- Settles O12: each offset resolves to what stands there, and an access does what its target does. -/
theorem registerMapIsR32 : Obligations.RegisterMapIsR32 := by
  refine ⟨resolve_regOffset, fun k hk => ?_, fun i k hi hk => ?_, fun i k hi hk => ?_, fun s off g v hg => ?_⟩
  · rw [resolve_ofNat (by omega) (by omega), targetAt_seg hk]
  · rw [resolve_ofNat (by omega) (by omega), targetAt_stream hi hk]
  · rw [resolve_ofNat (by omega) (by omega), targetAt_pkt hk]
  · exact ⟨access_base_add hg _ s, access_base_add hg _ s⟩

/-! ID, VERSION and STATUS -/

/-- `VERSION` as a number: its two fields do not overlap (R34). -/
theorem versionWord_toNat {c : Config} (h : c.streamSlots ≤ 32) : (versionWord c).toNat = 0x01 + 256 * c.streamSlots := by
  have hslots : (field 8 (BitVec.ofNat 8 c.streamSlots)).toNat = 256 * c.streamSlots := by
    simp only [field, BitVec.toNat_shiftLeft, BitVec.toNat_setWidth, BitVec.toNat_ofNat, Nat.shiftLeft_eq]
    omega
  have hor := Nat.two_pow_add_eq_or_of_lt (i := 8) (show 1 < 2 ^ 8 by decide) c.streamSlots
  rw [versionWord, BitVec.toNat_or, hslots, show (field 0 0x01#8).toNat = 1 from rfl, Nat.or_comm, Nat.add_comm]
  exact hor.symm

/-- Settles O13: VERSION is 1 plus 256 times STREAM_SLOTS, which a legal configuration bounds by 32. -/
theorem identificationRegisters : Obligations.IdentificationRegisters := by
  refine ⟨fun s h => ⟨rfl, ?_⟩, fun s h => ?_⟩
  · simp only [Config.legal, Bool.and_eq_true, decide_eq_true_eq] at h
    exact versionWord_toNat h.1.2
  · simp only [peek, versionWord, h]
    decide

/-- Settles O14: each bit or field comes from its own row of the table and no other. -/
theorem statusWordLayout : Obligations.StatusWordLayout := by
  intro s
  refine ⟨_, rfl, ?_, ?_, ?_, ?_, ?_, ?_, ?_, ?_, ?_⟩ <;> simp [peek, Status.toWord, BitVec.extractLsb'_or]

/-! The other registers and the windows -/

/-- Byte `j` of a SEG word is its `j`th segment byte (R54). -/
theorem PageRegs.extractLsb'_segWord (p : PageRegs) (k : Nat) {j : Nat} (hj : j < 4) :
    (p.segWord k).extractLsb' (8 * j) 8 = p.segByte (4 * k + j) := by
  obtain rfl | rfl | rfl | rfl : j = 0 ∨ j = 1 ∨ j = 2 ∨ j = 3 := by omega
  all_goals simp [PageRegs.segWord, BitVec.extractLsb'_or]

/-- The words of a packet entry (R55). -/
theorem PktEntry.word_fields (e : PktEntry) :
    e.word0.extractLsb' 0 16 = e.offset ∧ e.word0.extractLsb' 16 16 = 0#16 ∧
    e.word1.extractLsb' 0 16 = e.length ∧ e.word1.extractLsb' 16 14 = 0#14 ∧
    e.word1.getLsbD 30 = e.contFragment ∧ e.word1.getLsbD 31 = e.complete := by
  refine ⟨?_, ?_, ?_, ?_, ?_, ?_⟩ <;> simp [PktEntry.word0, PktEntry.word1, BitVec.extractLsb'_or]

/-- Past its five words a slot reads 0 (R56). -/
theorem Slot.word_of_five_le (t : Slot) {k : Nat} (hk : 5 ≤ k) : t.word k = 0 := by
  obtain ⟨m, rfl⟩ : ∃ m, k = m + 5 := ⟨k - 5, by omega⟩
  cases h : t.valid <;> simp [Slot.word, h]

theorem Slot.word_of_invalid {t : Slot} (h : t.valid = false) (k : Nat) : t.word k = 0 := by
  simp [Slot.word, h]

/-- The words of a valid slot (R56). -/
theorem Slot.word_of_valid {t : Slot} (h : t.valid = true) :
    t.word 0 = t.serial ∧ t.word 1 = t.lastSeq ∧ t.word 2 = lo32 t.lastGran ∧ t.word 3 = hi32 t.lastGran ∧
    t.word 4 = t.flagsWord := by
  simp [Slot.word, h]

/-- A slot that does not exist or is invalid reads 0 in every word (R56). -/
theorem peek_stream_of_unused {s : State} {i : Fin 32} (h : ¬ (i.val < s.cfg.streamSlots ∧ s.slots[i].valid = true))
    (k : Nat) : peek s (.stream i k) = 0 := by
  rw [peek]
  by_cases hi : i.val < s.cfg.streamSlots
  · rw [State.slotAt_fin hi]
    exact Slot.word_of_invalid (by simpa [hi] using h) k
  · rw [State.slotAt_absent (by omega), Slot.zero_word]

/-- Settles O15: register by register, each field comes from its own row of the table and no other. -/
theorem hostReadableWordLayouts : Obligations.HostReadableWordLayouts := by
  intro s
  refine ⟨?pgInfo, ?ctrl, ?rejInfo, ?pgHdr, ?halves, ?whole, fun k j _ hj => s.pg.extractLsb'_segWord k hj, ?pkt, ?pkt255,
    fun i => ?slot⟩
  case pgInfo =>
    refine ⟨_, rfl, ?_, ?_, ?_, ?_, ?_, ?_, ?_, ?_, ?_, ?_, ?_, ?_, ?_⟩ <;>
      simp [peek, PageInfo.toWord, BitVec.extractLsb'_or]
  case ctrl => refine ⟨_, rfl, ?_, ?_, ?_, ?_, ?_⟩ <;> simp [peek, Ctrl.toWord, BitVec.extractLsb'_or]
  case rejInfo =>
    have hlast : (peek s (.reg .rejInfo)).extractLsb' 16 8 = s.rej.lastCode := by
      simp [peek, RejInfo.toWord, BitVec.extractLsb'_or]
    refine ⟨_, rfl, by simp [peek, RejInfo.toWord, BitVec.extractLsb'_or], hlast.trans ?_,
      by simp [peek, RejInfo.toWord, BitVec.extractLsb'_or]⟩
    unfold RejInfo.lastCode
    cases s.rej.last with
    | none => rfl
    | some r => cases r <;> rfl
  case pgHdr => refine ⟨_, rfl, ?_, ?_, ?_, ?_⟩ <;> simp [peek, PageRegs.hdrWord, BitVec.extractLsb'_or]
  case halves => simp [peek, lo32_eq_extractLsb', hi32_eq_extractLsb']
  case whole => simp [peek]
  case pkt =>
    intro i
    refine ⟨_, _, rfl, rfl, ?_⟩
    simp only [peek, PageRegs.pktEntry_fin]
    exact PktEntry.word_fields _
  case pkt255 => simp only [peek, PageRegs.pktEntry_255]; decide
  case slot =>
    split
    · next h =>
      obtain ⟨hi, hv⟩ := h
      obtain ⟨h0, h1, h2, h3, h4⟩ := Slot.word_of_valid hv
      simp only [peek, State.slotAt_fin hi, h0, h1, h2, h3, h4, lo32_eq_extractLsb', hi32_eq_extractLsb', true_and]
      refine ⟨⟨_, rfl, by simpa [Slot.flagsWord] using hv, ?_, ?_, ?_⟩, fun k hk => Slot.word_of_five_le _ hk⟩ <;>
        simp [Slot.flagsWord, BitVec.extractLsb'_or]
    · next h => exact peek_stream_of_unused h

end Sys2Proof.Machine
end

section
/-! SUPPORT. What the host reads back after a write (R35 to R41). -/

namespace Sys2Proof.Machine

/-- The mask of a W1C write keeps STATUS's other bits and clears each of the three written as 1 (R36). -/
theorem Status.toWord_w1c (t : Status) (busy : Bool) (v : Word) :
    (t.w1c v).toWord busy = t.toWord busy &&& ~~~(v &&& 0x0000000E) := by
  have hmask : (~~~(v &&& 0x0000000E#32)).extractLsb' 8 8 = BitVec.allOnes 8 := by
    apply BitVec.eq_of_getLsbD_eq
    intro i hi
    interval_cases i <;> simp
  have hcode : field 8 t.result.code &&& ~~~(v &&& 0x0000000E#32) = field 8 t.result.code := by
    rw [field_and, hmask, BitVec.and_allOnes]
  simp [Status.toWord, BitVec.and_or_distrib_right, flag_and, hcode]

/-- Settles O20: the W1C mask on STATUS, and no other field of the state is touched. -/
theorem statusWritesOneToClear : Obligations.StatusWritesOneToClear :=
  fun s v => ⟨s.status.toWord_w1c s.busy v, rfl⟩

/-- CTRL holds the four bits written (R35). -/
theorem Ctrl.toWord_ofWord (v : Word) : (Ctrl.ofWord v).toWord = v &&& 0x0000000F := by
  apply BitVec.eq_of_getLsbD_eq
  intro i hi
  interval_cases i <;> simp [Ctrl.toWord, Ctrl.ofWord]

@[simp] theorem lo32_withLo (p : DWord) (v : Word) : lo32 (withLo p v) = v := lo32_join64 _ _
@[simp] theorem hi32_withLo (p : DWord) (v : Word) : hi32 (withLo p v) = hi32 p := hi32_join64 _ _
@[simp] theorem lo32_withHi (p : DWord) (v : Word) : lo32 (withHi p v) = lo32 p := lo32_join64 _ _
@[simp] theorem hi32_withHi (p : DWord) (v : Word) : hi32 (withHi p v) = v := hi32_join64 _ _

theorem idleOnly_of_idle {s : State} (h : s.busy = false) (w : State → State) : idleOnly w s = w s := by
  simp [idleOnly, h]

/-! No two registers read the same bits of the state, so an update shows in its own register alone (R32) -/

section
variable {s : State} {g : Target}

theorem peek_setStatus (h : g ≠ .reg .status) (v : Status) : peek (s.setStatus v) g = peek s g := by
  cases g with
  | reg r => cases r with
    | status => exact absurd rfl h
    | _ => rfl
  | pkt i k => cases k <;> rfl
  | _ => rfl

theorem peek_setCtrl (h : g ≠ .reg .ctrl) (v : Ctrl) : peek (s.setCtrl v) g = peek s g := by
  cases g with
  | reg r => cases r with
    | ctrl => exact absurd rfl h
    | _ => rfl
  | pkt i k => cases k <;> rfl
  | _ => rfl

theorem peek_setCrc (h : g ≠ .reg .crc) (v : Word) : peek (s.setCrc v) g = peek s g := by
  cases g with
  | reg r => cases r with
    | crc => exact absurd rfl h
    | _ => rfl
  | pkt i k => cases k <;> rfl
  | _ => rfl

theorem peek_setArgLen (h : g ≠ .reg .argLen) (v : Word) : peek (s.setArgLen v) g = peek s g := by
  cases g with
  | reg r => cases r with
    | argLen => exact absurd rfl h
    | _ => rfl
  | pkt i k => cases k <;> rfl
  | _ => rfl

theorem peek_setPos {p : DWord} (hlo : g = .reg .posLo → lo32 p = lo32 s.pos)
    (hhi : g = .reg .posHi → hi32 p = hi32 s.pos) : peek (s.setPos p) g = peek s g := by
  cases g with
  | reg r => cases r with
    | posLo => exact hlo rfl
    | posHi => exact hhi rfl
    | _ => rfl
  | pkt i k => cases k <;> rfl
  | _ => rfl

theorem peek_setArgAddr {a : DWord} (hlo : g = .reg .argAddrLo → lo32 a = lo32 s.argAddr)
    (hhi : g = .reg .argAddrHi → hi32 a = hi32 s.argAddr) : peek (s.setArgAddr a) g = peek s g := by
  cases g with
  | reg r => cases r with
    | argAddrLo => exact hlo rfl
    | argAddrHi => exact hhi rfl
    | _ => rfl
  | pkt i k => cases k <;> rfl
  | _ => rfl

end

/-- Settles O21: an idle write reaches one field, which its own register reads back and no other register reads. -/
theorem idleWritesReadBack : Obligations.IdleWritesReadBack := by
  intro s v h
  refine ⟨?_, ?_, fun r hr => ?_⟩
  · simp [writeTarget, idleOnly_of_idle h, peek, Ctrl.toWord_ofWord]
  · simp [writeTarget, idleOnly_of_idle h, peek]
  · simp only [List.mem_cons, List.not_mem_nil, or_false] at hr
    rcases hr with rfl | rfl | rfl | rfl | rfl | rfl | rfl <;> simp only [writeTarget, idleOnly_of_idle h]
    · exact ⟨fun g hg _ => peek_setCtrl hg _, by simp, h⟩
    · exact ⟨fun g hg _ => peek_setCrc hg v, by simp, h⟩
    · refine ⟨fun g hg hs => ?_, by simp [Status.undead], h⟩
      rw [peek_setStatus hs, peek_setPos (fun e => absurd e hg) fun _ => hi32_withLo _ v]
    · refine ⟨fun g hg hs => ?_, by simp [Status.undead], h⟩
      rw [peek_setStatus hs, peek_setPos (fun _ => lo32_withHi _ v) fun e => absurd e hg]
    · exact ⟨fun g hg _ => peek_setArgAddr (fun e => absurd e hg) fun _ => hi32_withLo _ v, by simp, h⟩
    · exact ⟨fun g hg _ => peek_setArgAddr (fun _ => lo32_withHi _ v) fun e => absurd e hg, by simp, h⟩
    · exact ⟨fun g hg _ => peek_setArgLen hg v, by simp, h⟩

end Sys2Proof.Machine
end

section
/-! SUPPORT. What every page command leaves alone, and what a command says of rejections by LOST_SYNC (R58, R175, R232). -/

namespace Sys2Proof.Machine

/-! What a page command leaves alone -/

/-- CRC is no page command's register (R39). -/
theorem Executed.crc_of_page {i : Instr} {s t : State} (h : Executed s i t) (hi : i = .pageCheck ∨ i = .pageNext) :
    t.crc = s.crc := by
  cases h with
  | checkDead | nextDead | checkEoi => rfl
  | checkOk _ hc => simpa [finishPage, State.cleared] using (pageCheck_same hc).1.crc
  | checkTruncated _ hc | checkRejected _ hc => exact (pageCheck_same hc).1.crc
  | next _ hr he =>
    obtain ⟨-, -, -, -, -, hcrc, -⟩ := he.frame
    exact hcrc.trans hr.same.crc
  | _ => simp at hi

/-- PAGE_CHECK moves past no candidate, so it counts no waste and never finds the window empty (R165). -/
theorem Executed.waste_dead_of_pageCheck {s t : State} (h : Executed s .pageCheck t) :
    t.waste = s.waste ∧ t.status.dead = s.status.dead := by
  cases h with
  | checkDead | checkEoi => exact ⟨rfl, rfl⟩
  | checkOk _ hc | checkTruncated _ hc | checkRejected _ hc =>
    obtain ⟨hsame, hwaste, -, -⟩ := pageCheck_same hc
    simpa [finishPage, State.cleared] using And.intro hwaste hsame.dead

/-- Settles O52: the frame of every command, with CRC, WASTE and DEAD for the page commands. -/
theorem pageCommandsFrame : Obligations.PageCommandsFrame := by
  intro i s t hi hexec
  have h := exec_next hexec
  have hcrc := h.crc_of_page hi
  have hnotReset : i ≠ .softReset := by rcases hi with rfl | rfl <;> decide
  obtain ⟨hcfg, hsrc, hhost, -, -, hframe⟩ := h.frame
  obtain ⟨hctrl, hargAddr, hargLen, hoverrun, -⟩ := hframe hnotReset
  refine ⟨hctrl, hcrc, hargAddr, hargLen, hoverrun, hcfg, hhost, by rw [hsrc, Source.settle_len],
    by rw [hsrc, Source.settle_mem], fun hcheck => ?_, ?_⟩
  · subst hcheck
    exact h.waste_dead_of_pageCheck
  · simp [peek, hcfg, hsrc, hctrl, hcrc, hargAddr, hargLen]

/-! LOST_SYNC and RESYNC: `lost` is what LOST_SYNC was when the command began, with REJ_INFO zeroed (R43) -/

/-- A rejection is outstanding: one before the command, or one of its own, which REJ_INFO counts (R58, R164). -/
def RejInfo.lostSince (lost : Bool) (i : RejInfo) : Bool := lost || decide (i.count ≠ 0)

/-- LOST_SYNC says whether a rejection is outstanding (R58). -/
def State.MarksLoss (lost : Bool) (s : State) : Prop := s.status.lostSync = s.rej.lostSince lost

/-- After the command RESYNC says so of an accepted page, and LOST_SYNC where none was accepted (R175). -/
def State.MarksRecovery (lost : Bool) (t : State) : Prop :=
  (t.status.result = .ok → t.pg.info.resync = t.rej.lostSince lost ∧ t.status.lostSync = false) ∧
  (t.status.result ≠ .ok → t.MarksLoss lost)

theorem marksLoss_cleared (s : State) : s.cleared.MarksLoss s.status.lostSync := by
  simp [State.MarksLoss, RejInfo.lostSince, State.cleared, RejInfo.reset]

theorem marksLoss_rejectCandidate (lost : Bool) (r : Rejection) (s : State) : (rejectCandidate r s).MarksLoss lost := by
  have hcount : (s.rej.add r).count ≠ 0 := RejInfo.add_count_ne_zero r s.rej
  rw [State.MarksLoss, RejInfo.lostSince, rejectCandidate_rej, decide_eq_true hcount, Bool.or_true]
  rfl

theorem Rejection.result_ne_ok (r : Rejection) : r.result ≠ .ok := by
  cases r <;> decide

namespace State.MarksLoss

variable {lost : Bool} {s : State} (h : s.MarksLoss lost)
include h

theorem of_pageCheck {t : State} {c : Nat} {v : Verdict} (hc : pageCheck s c = (t, v)) : t.MarksLoss lost := by
  obtain ⟨-, -, hrej, hstatus⟩ := pageCheck_same hc
  rwa [State.MarksLoss, hrej, hstatus]

theorem seekTo (n : Nat) : (seekTo n s).MarksLoss lost := h

theorem addWaste (n : Nat) : (addWaste n s).MarksLoss lost := h

theorem deaden : (s.setStatus s.status.deaden).MarksLoss lost := h

theorem of_resynced {u : State} {c d : Nat} (hr : Resynced s c u d) : u.MarksLoss lost := by
  induction hr with
  | here => exact h
  | further _ _ _ ih => exact ih ((marksLoss_rejectCandidate lost _ _).addWaste _)

theorem complete {code : ResultCode} (hcode : code ≠ .ok) : (complete code s).MarksRecovery lost :=
  ⟨fun hok => absurd hok hcode, fun _ => h⟩

/-- Acceptance hands LOST_SYNC on to RESYNC (R163). -/
theorem finishPage (p : Page) : (finishPage p s).MarksRecovery lost :=
  ⟨fun _ => ⟨by simpa [Machine.finishPage, pageRegs, pageInfo, State.MarksLoss] using h, rfl⟩,
    fun hne => absurd rfl hne⟩

theorem giveUp (c : Nat) : (giveUp c s).MarksRecovery lost :=
  ((h.addWaste _).seekTo _).deaden.complete (by decide)

theorem of_loopEnd {t : State} {d : Nat} (he : LoopEnd s d t) : t.MarksRecovery lost := by
  cases he with
  | accepted hc => exact (h.of_pageCheck hc).finishPage _
  | ended => exact h.complete (by decide)
  | truncated hc => exact ((h.of_pageCheck hc).seekTo d).complete (by decide)
  | exhausted => exact (((marksLoss_rejectCandidate lost _ _).addWaste _).seekTo _).complete (by decide)
  | corrupt => exact (marksLoss_rejectCandidate lost _ _).giveUp d

end State.MarksLoss

/-- A page command with `DEAD = 0` marks the rejections outstanding (R58, R175). -/
theorem Executed.marksRecovery {i : Instr} {s t : State} (h : Executed s i t) (hi : i = .pageCheck ∨ i = .pageNext)
    (hdead : s.status.dead = false) : t.MarksRecovery s.status.lostSync := by
  have hs := marksLoss_cleared s
  cases h with
  | checkDead hd | nextDead hd => rw [hdead] at hd; cases hd
  | checkOk _ hc => exact (hs.of_pageCheck hc).finishPage _
  | checkEoi => exact hs.complete (by decide)
  | checkTruncated _ hc => exact (hs.of_pageCheck hc).complete (by decide)
  | @checkRejected _ r => exact (marksLoss_rejectCandidate _ r _).complete r.result_ne_ok
  | next _ hr he => exact (hs.of_resynced hr).of_loopEnd he
  | _ => simp at hi

/-- Only the page commands and SOFT_RESET have to do with LOST_SYNC (R58). -/
theorem Executed.lostSync_of_other {i : Instr} {s t : State} (h : Executed s i t) (hcheck : i ≠ .pageCheck)
    (hnext : i ≠ .pageNext) (hreset : i ≠ .softReset) : t.status.lostSync = s.status.lostSync := by
  cases h with
  | nop | crcClear | crcByte | crcRun | crcRunShort | wasteClear | streamsClear => rfl
  | softReset => exact absurd rfl hreset
  | nextDead | next => exact absurd rfl hnext
  | _ => exact absurd rfl hcheck

/-- Settles O53: through the checks and the loop LOST_SYNC marks the rejections outstanding, and acceptance hands it on. -/
theorem resyncMarksTheFirstPageRecovered : Obligations.ResyncMarksTheFirstPageRecovered :=
  fun _ _ _ hexec => ⟨(exec_next hexec).marksRecovery, (exec_next hexec).lostSync_of_other⟩

end Sys2Proof.Machine
end

section
/-! SUPPORT. Which steps can clear ERR or OVERRUN (R60). -/

namespace Sys2Proof.Machine

/-- ERR and OVERRUN, once 1, stay 1. -/
def State.KeepsErrors (s t : State) : Prop :=
  (s.status.err = true → t.status.err = true) ∧ (s.status.overrun = true → t.status.overrun = true)

theorem State.KeepsErrors.of_eq {s t : State} (h : t.status = s.status) : s.KeepsErrors t := by
  rw [State.KeepsErrors, h]
  exact ⟨id, id⟩

/-- `SOFT_RESET` has one word (R113). -/
theorem eq_of_decode_softReset {w : Word} (h : decode w = .ok .softReset) : w = 0x000000FF := by
  unfold decode at h
  split at h
  · next r hfind =>
    have hmem := List.mem_of_find?_eq_some hfind
    have hselects : w &&& r.mask = r.pattern := by simpa [Row.selects] using List.find?_some hfind
    have hbuild : r.build (fieldsOf w).imm8 = .softReset := Except.ok.inj h
    simp only [opcodeMap, List.mem_cons, List.not_mem_nil, or_false] at hmem
    rcases hmem with rfl | rfl | rfl | rfl | rfl | rfl | rfl | rfl | rfl <;> cases hbuild
    exact (BitVec.and_allOnes (x := w)).symm.trans hselects
  · cases h

/-- Every command but SOFT_RESET can only set ERR, and leaves OVERRUN alone (R60). -/
theorem Executed.keepsErrors {i : Instr} {s t : State} (h : Executed s i t) (hi : i ≠ .softReset) : s.KeepsErrors t := by
  obtain ⟨-, -, -, -, -, hframe⟩ := h.frame
  obtain ⟨-, -, -, hoverrun, herr⟩ := hframe hi
  exact ⟨fun h1 => by rw [herr, h1, Bool.true_or], fun h1 => by rw [hoverrun, h1]⟩

theorem Engine.keepsErrors {s t : State} (h : Engine s t) (hp : s.pending ≠ some 0x000000FF) : s.KeepsErrors t := by
  cases h with
  | idle => exact .of_eq rfl
  | @command w i _ hw hd he =>
    refine he.keepsErrors fun hi => hp ?_
    subst hi
    rw [hw, eq_of_decode_softReset hd]
  | illegal => exact ⟨fun h1 => by simp [h1], fun h1 => by simpa using h1⟩

theorem idleOnly_keepsErrors {w : State → State} {s : State} (h : s.KeepsErrors (w s)) : s.KeepsErrors (idleOnly w s) := by
  rcases idleOnly_cases w s with ⟨-, he⟩ | ⟨-, he⟩ <;> rw [he]
  · exact ⟨fun _ => rfl, fun _ => rfl⟩
  · exact h

/-- A write anywhere but to STATUS (R224). -/
theorem writeTarget_keepsErrors {g : Target} (hg : g ≠ .reg .status) (v : Word) (s : State) :
    s.KeepsErrors (writeTarget v s g) := by
  unfold writeTarget
  split
  case h_2 => exact absurd rfl hg
  case h_10 => exact .of_eq rfl
  all_goals exact idleOnly_keepsErrors ⟨id, id⟩

theorem readTarget_status (g : Target) (s : State) : (readTarget g s).status = s.status := by
  rcases readTarget_cases g s with ⟨he, -⟩ | ⟨he, -⟩ <;> rw [he] <;> rfl

theorem hostWait_status (s : State) : (hostWait s).status = s.status := by
  obtain ⟨l, hl⟩ := hostWait_eq s
  rw [hl]
  rfl

/-- A turn keeps ERR and OVERRUN, or is one of the three that may clear them (R60). -/
theorem Turned.keepsErrors_or {turn : Turn} {s t : State} (h : Turned s turn t) :
    s.KeepsErrors t ∨ (∃ v, turn = .write .w32 (s.cfg.mmioBase + 0x00C) v) ∨ turn = .reset ∨
    (turn = .engine ∧ s.pending = some 0x000000FF) := by
  cases h with
  | read => exact .inl (.of_eq (readTarget_status _ s))
  | @write width addr off g v ho hg =>
    by_cases hstatus : g = .reg .status
    · obtain ⟨rfl, rfl⟩ := eq_of_resolve_reg (hstatus ▸ hg)
      obtain ⟨-, -, rfl⟩ := selectOffset_eq_some.1 ho
      exact .inr (.inl ⟨v, rfl⟩)
    · exact .inl (writeTarget_keepsErrors hstatus v s)
  | wait => exact .inl (.of_eq (hostWait_status s))
  | engine he =>
    by_cases hp : s.pending = some 0x000000FF
    · exact .inr (.inr (.inr ⟨rfl, hp⟩))
    · exact .inl (he.keepsErrors hp)
  | attach => exact .inl (.of_eq rfl)
  | reset => exact .inr (.inr (.inl rfl))

/-- Settles O23: every turn but the three keeps ERR and OVERRUN, and so does an engine that runs another command. -/
theorem errAndOverrunAreSticky : Obligations.ErrAndOverrunAreSticky := by
  intro s t hstep hcleared
  have hlost : ¬ s.KeepsErrors t := by
    rintro ⟨herr, hoverrun⟩
    rcases hcleared with ⟨h1, h0⟩ | ⟨h1, h0⟩
    · rw [herr h1] at h0; cases h0
    · rw [hoverrun h1] at h0; cases h0
  rcases step_next hstep with ⟨hagenda, he⟩ | ⟨turn, rest, hagenda, ht⟩
  · have hp : s.pending = some 0x000000FF := by
      by_contra hp
      exact hlost (he.keepsErrors hp)
    exact .inr (.inr ⟨hp, .inl hagenda⟩)
  · rcases ht.keepsErrors_or with hkeeps | ⟨v, rfl⟩ | rfl | ⟨rfl, hp⟩
    · exact absurd hkeeps hlost
    · exact .inl ⟨v, rest, hagenda⟩
    · exact .inr (.inl ⟨rest, hagenda⟩)
    · exact .inr (.inr ⟨hp, .inr ⟨rest, hagenda⟩⟩)

end Sys2Proof.Machine
end

section
/-! SUPPORT. Two runs of a command whose byte sources agree below SRC_LEN: each check, scan and command does the same in
both, since every read it makes lies below SRC_LEN (R81). -/

namespace Sys2Proof.Machine

/-- The state with other bytes in its byte source, the length kept. -/
def State.withMem (m : Memory) (s : State) : State := s.setSrc { s.src with mem := m }

/-- The source is constant, and `m` holds its bytes below SRC_LEN (R80, R84). -/
structure State.Agrees (m : Memory) (s : State) : Prop where
  calm  : s.src.disturb = none
  below : ∀ a, a < s.src.len.toNat → m.read a = s.src.mem.read a

/-- What the engine reads depends on the source alone. -/
theorem State.Agrees.of_src {m : Memory} {s t : State} (h : s.Agrees m) (hsrc : t.src = s.src) : t.Agrees m := by
  constructor <;> rw [hsrc]
  · exact h.calm
  · exact h.below

@[simp] theorem srcLen_withMem (m : Memory) (s : State) : (s.withMem m).srcLen = s.srcLen := rfl

theorem complete_withMem (m : Memory) (code : ResultCode) (s : State) :
    complete code (s.withMem m) = (complete code s).withMem m := rfl

section
variable {m : Memory} {s : State} (h : s.Agrees m)
include h

/-- A read below SRC_LEN gives the same bytes. -/
theorem memRead_withMem (site : ReadSite) {a n : Nat} (hfits : a + n ≤ s.srcLen) :
    (s.withMem m).memRead site a n = s.memRead site a n := by
  have hcalm : (s.withMem m).src.disturb = none := h.calm
  rw [State.memRead_calm hcalm, State.memRead_calm h.calm]
  rw [State.srcLen_calm h.calm] at hfits
  refine List.map_congr_left fun i hi => h.below _ ?_
  have := List.mem_range.1 hi
  omega

/-! Checking one candidate (R151) -/

theorem captureAt_withMem (site : ReadSite) {o : Nat} (hfits : o + 4 ≤ s.srcLen) :
    captureAt (s.withMem m) site o = captureAt s site o := by
  rw [captureAt, captureAt, memRead_withMem h site hfits]

/-- The segment table and the payload are read only if the page they belong to fits (R156). -/
theorem checkTable_withMem (c : Nat) (hdr : List Byte) :
    checkTable (s.withMem m) c hdr = Prod.map (State.withMem m) id (checkTable s c hdr) := by
  simp only [checkTable, apply_ite (Prod.map (State.withMem m) id)]
  refine ite_congr rfl (fun _ => rfl) fun htable => ?_
  rw [memRead_withMem h .segTable (by simp only [State.avail, hdrLen] at htable ⊢; omega)]
  refine ite_congr rfl (fun _ => rfl) fun hpayload => ?_
  rw [memRead_withMem h _ (by simp only [State.avail, hdrLen] at hpayload ⊢; omega)]
  rfl

theorem checkHeader_withMem (c : Nat) (hdr : List Byte) :
    checkHeader (s.withMem m) c hdr = Prod.map (State.withMem m) id (checkHeader s c hdr) := by
  simp only [checkHeader, apply_ite (Prod.map (State.withMem m) id)]
  exact ite_congr rfl (fun _ => rfl) fun _ => ite_congr rfl (fun _ => rfl) fun _ => checkTable_withMem h c hdr

/-- The capture pattern and the header are read only if they are present (R152). -/
theorem pageCheck_withMem (c : Nat) :
    pageCheck (s.withMem m) c = Prod.map (State.withMem m) id (pageCheck s c) := by
  simp only [pageCheck, apply_ite (Prod.map (State.withMem m) id)]
  have hcapture : ((s.withMem m).avail c < 4 ∨ captureAt (s.withMem m) .capture c = false) =
      (s.avail c < 4 ∨ captureAt s .capture c = false) :=
    propext <| or_congr_right' fun hfour => by
      rw [captureAt_withMem h .capture (by simp only [State.avail, srcLen_withMem] at hfour; omega)]
  refine ite_congr rfl (fun _ => rfl) fun _ => ite_congr hcapture (fun _ => rfl) fun _ =>
    ite_congr rfl (fun _ => rfl) fun hheader => ?_
  rw [memRead_withMem h .header (by simp only [State.avail, hdrLen] at hheader ⊢; omega), checkHeader_withMem h]

theorem pageCheck_withMem_of_eq {c : Nat} {t : State} {v : Verdict} (hc : pageCheck s c = (t, v)) :
    pageCheck (s.withMem m) c = (t.withMem m, v) := by
  rw [pageCheck_withMem h, hc]; rfl

/-! Scanning (R167) -/

theorem findCapture_withMem : ∀ {k o : Nat}, o + k + 3 ≤ s.srcLen ∨ k = 0 →
    findCapture (s.withMem m) o k = findCapture s o k
  | 0, _, _ => rfl
  | k + 1, o, hfits => by
    rw [findCapture, findCapture, captureAt_withMem h .scan (by omega), findCapture_withMem (by omega)]

theorem scan_withMem (c : Nat) : scan (s.withMem m) c = scan s c := by
  have hcount : scanCount (s.withMem m) c = scanCount s c := rfl
  have hfits : c + 1 + scanCount s c + 3 ≤ s.srcLen ∨ scanCount s c = 0 := by
    unfold scanCount
    omega
  rw [scan, scan, hcount, findCapture_withMem h hfits, srcLen_withMem]

end

/-! The commands -/

theorem checkAt_withMem {m : Memory} {s : State} (h : s.Agrees m) (c : Nat) :
    checkAt (s.withMem m) c = (checkAt s c).withMem m := by
  rw [checkAt, checkAt, pageCheck_withMem h]
  obtain ⟨t, v⟩ := pageCheck s c
  cases v <;> rfl

/-- Pass by pass the loop comes to the same candidates, and ends in the same way (R166). -/
theorem nextLoop_withMem {m : Memory} : ∀ (fuel : Nat) {s : State} (c : Nat), s.Agrees m →
    nextLoop fuel (s.withMem m) c = (nextLoop fuel s c).withMem m
  | 0, _, _, _ => rfl
  | fuel + 1, s, c, h => by
    obtain ⟨t, v, hc⟩ : ∃ t v, pageCheck s c = (t, v) := ⟨_, _, rfl⟩
    have ht : t.Agrees m := h.of_src (pageCheck_same hc).1.src
    rw [nextLoop, nextLoop, pageCheck_withMem_of_eq h hc, hc]
    cases v with
    | ok p => rfl
    | eoi => rfl
    | truncated => rfl
    | rejected r =>
      have hu : (rejectCandidate r t).Agrees m := ht.of_src rfl
      have hscan : scan (rejectCandidate r (t.withMem m)) c = scan (rejectCandidate r t) c := scan_withMem hu c
      dsimp only
      rw [hscan]
      cases scan (rejectCandidate r t) c with
      | found o =>
        have hw : (addWaste (o - c) (rejectCandidate r t)).Agrees m := hu.of_src rfl
        exact nextLoop_withMem fuel o hw
      | endOfInput => rfl
      | windowEmpty => rfl

theorem nextFrom_withMem {m : Memory} {s : State} (h : s.Agrees m) (c : Nat) :
    nextFrom (s.withMem m) c = (nextFrom s c).withMem m :=
  nextLoop_withMem _ c h

theorem execCrcRun_withMem {m : Memory} {s t : State} (h : s.Agrees m) (hexec : execCrcRun s = .next t) :
    execCrcRun (s.withMem m) = .next (t.withMem m) := by
  simp only [execCrcRun] at hexec
  split at hexec <;> cases hexec
  · next hshort => exact if_pos hshort
  · next hfits =>
    rw [← complete_withMem, ← memRead_withMem h .crcRun (by omega)]
    exact if_neg hfits

theorem execPageCheck_withMem {m : Memory} {s t : State} (h : s.Agrees m) (hexec : execPageCheck s = .next t) :
    execPageCheck (s.withMem m) = .next (t.withMem m) := by
  unfold execPageCheck at hexec
  split at hexec <;> cases hexec
  · next hdead => exact if_pos hdead
  · next hdead =>
    have hcleared : (s.setRej RejInfo.reset).Agrees m := h.of_src rfl
    rw [← checkAt_withMem hcleared]
    exact if_neg hdead

theorem execPageNext_withMem {m : Memory} {s t : State} (h : s.Agrees m) (hexec : execPageNext s = .next t) :
    execPageNext (s.withMem m) = .next (t.withMem m) := by
  unfold execPageNext at hexec
  split at hexec <;> cases hexec
  · next hdead => exact if_pos hdead
  · next hdead =>
    have hcleared : (s.setRej RejInfo.reset).Agrees m := h.of_src rfl
    rw [← nextFrom_withMem hcleared]
    exact if_neg hdead

/-- Settles O40: CRC_RUN and the page commands read below SRC_LEN alone, and the other commands read nothing. -/
theorem noByteAtOrPastTheEndIsRead : Obligations.NoByteAtOrPastTheEndIsRead := by
  intro i s t m hcalm hbelow hexec
  have h : s.Agrees m := ⟨hcalm, hbelow⟩
  change exec i (s.withMem m) = .next (t.withMem m)
  cases i with
  | crcRun => exact execCrcRun_withMem h hexec
  | pageCheck => exact execPageCheck_withMem h hexec
  | pageNext => exact execPageNext_withMem h hexec
  | nop | crcClear | crcByte | wasteClear | streamsClear | softReset => cases hexec; rfl

end Sys2Proof.Machine
end

section
/-! SUPPORT. Which host accesses are bus errors, what a read leaves, and which writes are ignored (R86 to R88, R94). -/

namespace Sys2Proof.Machine

/-! Bus errors (R86, R87) -/

/-- The offsets of R85's map: the registers, the SEG window, and everything from the stream window on. -/
theorem targetAt_eq_none_iff {off : Nat} :
    targetAt off = none ↔ ¬ (off ≤ 0x06F ∨ (0x100 ≤ off ∧ off ≤ 0x1FF) ∨ 0x400 ≤ off) := by
  unfold targetAt
  split
  · next hreg =>
    have hsome : Reg.all[off / 4]? ≠ none := by
      rw [ne_eq, List.getElem?_eq_none_iff, show Reg.all.length = 28 from rfl]
      omega
    rw [Option.map_eq_none_iff]
    exact iff_of_false hsome (by omega)
  · split_ifs <;> simp <;> omega

/-- R86 and R87 as the address decoder applies them. -/
theorem resolve_eq_none_iff {width : Width} {off : BitVec 12} :
    resolve width off = none ↔ ¬ (width = .w32 ∧ off.toNat % 4 = 0 ∧
      (off.toNat ≤ 0x06F ∨ (0x100 ≤ off.toNat ∧ off.toNat ≤ 0x1FF) ∨ 0x400 ≤ off.toNat)) := by
  unfold resolve
  split
  · next haccess => rw [targetAt_eq_none_iff, ← and_assoc, and_iff_right haccess]
  · next haccess => exact iff_of_true rfl fun hgood => haccess ⟨hgood.1, hgood.2.1⟩

/-- An access at an offset where nothing stands is a bus error, whatever it would do (R225). -/
theorem access_base_add_none {width : Width} {off : BitVec 12} (h : resolve width off = none)
    (act : Target → State) (s : State) :
    access width (s.cfg.mmioBase + off.toNat) act s = .fault (.busError off) := by
  simp [access, h]

/-- Settles O11: the decoder finds a target exactly at the accesses R86 and R87 allow, and BUSY is not asked. -/
theorem busErrorsAreExactlyR86AndR87 : Obligations.BusErrorsAreExactlyR86AndR87 := by
  intro s width off v
  split
  · next hgood =>
    obtain ⟨g, hg⟩ := Option.ne_none_iff_exists'.1 fun hnone => resolve_eq_none_iff.1 hnone hgood
    exact ⟨⟨_, access_base_add hg _ s⟩, ⟨_, access_base_add hg _ s⟩⟩
  · next hbad =>
    have hnone := resolve_eq_none_iff.2 hbad
    exact ⟨access_base_add_none hnone _ s, access_base_add_none hnone _ s⟩

/-! Reads (R94) -/

/-- No register shows what drives the block. -/
theorem peek_setHost (s : State) (v : HostSide) (g : Target) : peek (s.setHost v) g = peek s g := by
  cases g with
  | reg r => cases r <;> rfl
  | pkt i k => cases k <;> rfl
  | _ => rfl

/-- A read changes the host's side alone: the value recorded, and a draw used if the value is one. -/
theorem readTarget_eq_setHost (g : Target) (s : State) : ∃ v n,
    readTarget g s = s.setHost ⟨s.host.agenda, v :: s.host.reads, n⟩ ∧ (s.busy = false → v = peek s g) := by
  rcases readTarget_cases g s with ⟨he, hbusy, -⟩ | ⟨he, -⟩
  · exact ⟨_, _, he, fun hidle => by rw [hbusy] at hidle; cases hidle⟩
  · exact ⟨_, _, he, fun _ => rfl⟩

/-- Settles O16: a read changes the host's side, which no register shows. -/
theorem readsHaveNoSideEffects : Obligations.ReadsHaveNoSideEffects := by
  intro s g
  obtain ⟨v, n, he, hv⟩ := readTarget_eq_setHost g s
  exact ⟨_, he, rfl, v, rfl, hv, fun g' => by rw [he, peek_setHost]⟩

/-! Writes that are ignored (R88) -/

/-- Settles O18: a write reaches the nine registers named and ignores every other target. -/
theorem readOnlyTargetsIgnoreWrites : Obligations.ReadOnlyTargetsIgnoreWrites := by
  intro s v g hg
  cases g with
  | reg r =>
    have hr := hg r rfl
    cases r with
    | ctrl | status | cmd | crc | posLo | posHi | argAddrLo | argAddrHi | argLen => exact absurd (by decide) hr
    | _ => rfl
  | seg | stream | pkt => rfl

end Sys2Proof.Machine
end

section
/-! SUPPORT. Who changes the byte source, and what the engine sees of a change (R82, R84). -/

namespace Sys2Proof.Machine

/-! The block never writes the source (R82) -/

/-- The source holds the same bytes, as many of them. -/
def Source.SameBytes (r r' : Source) : Prop := r'.mem = r.mem ∧ r'.len = r.len

theorem Source.SameBytes.of_eq {r r' : Source} (h : r' = r) : r.SameBytes r' := by
  subst h
  exact ⟨rfl, rfl⟩

theorem Source.SameBytes.of_eq_settle {r r' : Source} (h : r' = r.settle) : r.SameBytes r' := by
  subst h
  exact ⟨rfl, rfl⟩

theorem Executed.src {i : Instr} {s t : State} (h : Executed s i t) : t.src = s.src.settle := by
  obtain ⟨-, hsrc, -⟩ := h.frame
  exact hsrc

theorem Engine.sameBytes {s t : State} (h : Engine s t) : s.src.SameBytes t.src := by
  cases h with
  | idle => exact .of_eq rfl
  | command _ _ he => exact .of_eq_settle he.src
  | illegal => exact .of_eq_settle rfl

theorem readTarget_src (g : Target) (s : State) : (readTarget g s).src = s.src := by
  obtain ⟨v, n, he, -⟩ := readTarget_eq_setHost g s
  rw [he, State.setHost_src]

theorem Written.src {v : Word} {s t : State} (h : Written v s t) : t.src = s.src := by
  cases h <;> rfl

theorem hostWait_src (s : State) : (hostWait s).src = s.src := by
  obtain ⟨l, hl⟩ := hostWait_eq s
  rw [hl, State.withAgenda_src, record_src]

/-- Every turn but an attachment keeps the source's bytes. -/
theorem Turned.sameBytes_or_attach {turn : Turn} {s t : State} (h : Turned s turn t) :
    s.src.SameBytes t.src ∨ ∃ len cells, turn = .attach len cells := by
  cases h with
  | read => exact .inl (.of_eq (readTarget_src _ s))
  | write => exact .inl (.of_eq (writeTarget_cases _ s _).src)
  | wait => exact .inl (.of_eq (hostWait_src s))
  | engine he => exact .inl he.sameBytes
  | attach => exact .inr ⟨_, _, rfl⟩
  | reset => exact .inl (.of_eq_settle rfl)

/-- Settles O57: a command only settles the source, and no turn but an attachment touches its bytes. -/
theorem theBlockNeverWritesTheSource : Obligations.TheBlockNeverWritesTheSource := by
  refine ⟨fun i s t hexec => Source.SameBytes.of_eq_settle (exec_next hexec).src, fun s t hstep hchanged => ?_⟩
  have hdiffer : ¬ s.src.SameBytes t.src := fun ⟨hmem, hlen⟩ => hchanged.elim (· hmem) (· hlen)
  rcases step_next hstep with ⟨-, he⟩ | ⟨turn, rest, hagenda, ht⟩
  · exact absurd he.sameBytes hdiffer
  · rcases ht.sameBytes_or_attach with hsame | ⟨len, cells, rfl⟩
    · exact absurd hsame hdiffer
    · exact ⟨len, cells, rest, hagenda⟩

/-! What an attachment holds: of two cells for one offset the later, and 0 where there is none (log entry 4) -/

theorem Memory.read_ofCells {n a : Nat} (ha : a < n) : ∀ (cells : List Host.Cell) {m : Memory}, m.wf = true →
    (Memory.ofCells n cells m).read a = ((cells.reverse.find? (·.1 == a)).map (·.2)).getD (m.read a)
  | [], _, _ => rfl
  | (k, b) :: cells, m, hm => by
    rw [Memory.ofCells, List.reverse_cons, List.find?_append, Option.map_or, Option.getD_or]
    split
    · rw [Memory.read_ofCells ha cells (Memory.write_wf hm), Memory.read_write a hm]
      by_cases hka : k = a
      · simp [hka]
      · simp [hka, Ne.symm hka]
    · next hk =>
      have hka : k ≠ a := by omega
      rw [Memory.read_ofCells ha cells hm]
      simp [hka]

/-! What the engine sees of an attachment (R84) -/

section
variable (busy : Bool) (epoch : Nat) (len : DWord) (cells : List Host.Cell) (r : Source)

@[simp] theorem Source.attach_len : (r.attach busy epoch len cells).len = len := by
  simp only [Source.attach]
  split <;> rfl

@[simp] theorem Source.attach_mem : (r.attach busy epoch len cells).mem = Memory.ofCells len.toNat cells [] := by
  simp only [Source.attach]
  split <;> rfl

theorem Source.attach_idle_disturb : (r.attach false epoch len cells).disturb = r.disturb := rfl

end

section
variable {busy : Bool} {epoch : Nat} {len : DWord} {cells : List Host.Cell} {r : Source}

/-- Attaching the bytes the source has changes nothing (log entry 3). -/
theorem Source.attach_of_sameBytes (h : r.SameBytes (r.attach busy epoch len cells)) :
    r.attach busy epoch len cells = r := by
  obtain ⟨hmem, hlen⟩ := h
  rw [Source.attach_mem] at hmem
  rw [Source.attach_len] at hlen
  subst hlen
  simp [Source.attach, hmem]

/-- The least and the greatest length the source had since the command in flight was accepted. -/
def Source.lengths (r : Source) : Nat × Nat :=
  match r.disturb with
  | none   => (r.len.toNat, r.len.toNat)
  | some d => (d.lo, d.hi)

/-- A change while busy leaves the range of lengths widened by the new one. -/
theorem Source.attach_busy_disturb (h : ¬ r.SameBytes (r.attach true epoch len cells)) :
    (r.attach true epoch len cells).disturb =
      some ⟨epoch, min r.lengths.1 len.toNat, max r.lengths.2 len.toNat⟩ := by
  have hchanged : ¬ (len = r.len ∧ Memory.ofCells len.toNat cells [] = r.mem) := fun ⟨hlen, hmem⟩ =>
    h ⟨by rw [Source.attach_mem, hmem], by rw [Source.attach_len, hlen]⟩
  have hwiden : Disturb.widen epoch r.len.toNat len.toNat r.disturb =
      ⟨epoch, min r.lengths.1 len.toNat, max r.lengths.2 len.toNat⟩ := by
    unfold Source.lengths
    cases r.disturb <;> rfl
  have htest : (true && !(len == r.len && Memory.ofCells len.toNat cells [] == r.mem)) = true := by
    simpa [imp_iff_not_or] using hchanged
  rw [← hwiden]
  simp only [Source.attach, if_pos htest]

end

theorem Source.byte_disturbed {r : Source} {d : Disturb} (h : r.disturb = some d) (site : ReadSite) (start a : Nat) :
    r.byte site start a = Config.freeByte d.epoch site start a := by
  simp [Source.byte, h]

/-- A source nothing has changed while busy is seen as it is. -/
theorem State.sees_calm {t : State} (h : t.src.disturb = none) :
    t.srcLen = t.src.len.toNat ∧ ∀ site start a, t.src.byte site start a = t.src.mem.read a :=
  ⟨State.srcLen_calm h, Source.byte_calm h⟩

theorem State.sees_settled {s t : State} (h : t.src = s.src.settle) :
    t.srcLen = s.src.len.toNat ∧ ∀ site start a, t.src.byte site start a = s.src.mem.read a := by
  have hcalm : t.src.disturb = none := by rw [h, Source.settle_disturb]
  have hseen := State.sees_calm hcalm
  rwa [h] at hseen ⊢

theorem step_attach_src {s t : State} {len : DWord} {cells : List Host.Cell} {rest : List Turn}
    (hagenda : s.host.agenda = .attach len cells :: rest) (hstep : step s = .next t) :
    t.src = s.src.attach s.busy s.host.draws len cells := by
  rw [step, hagenda] at hstep
  cases hstep
  rfl

/-- Settles O58: an attachment while idle or of the same bytes leaves no mark, another while busy leaves its range of
lengths and its draws, and completion and reset settle the source. -/
theorem sourceChangesWhileBusyAreDraws : Obligations.SourceChangesWhileBusyAreDraws := by
  refine ⟨fun s t len cells rest hagenda hstep => ?_, fun i s t hexec => State.sees_settled (exec_next hexec).src,
    fun s => State.sees_settled rfl⟩
  have hsrc := step_attach_src hagenda hstep
  have hlen : t.src.len = len := by rw [hsrc, Source.attach_len]
  refine ⟨hlen, fun a ha => ?_, fun hidle hcalm => ?_, fun hbusy hsameLen hsameMem => ?_, fun hbusy hdiffer => ?_⟩
  · rw [hsrc, Source.attach_mem, Memory.read_ofCells ha cells rfl]
    rfl
  · have hdisturb : t.src.disturb = none := by rw [hsrc, hidle, Source.attach_idle_disturb, hcalm]
    have hseen := State.sees_calm hdisturb
    rwa [hlen] at hseen
  · have hsame : t.src = s.src := by
      rw [hsrc] at hsameLen hsameMem ⊢
      exact Source.attach_of_sameBytes ⟨hsameMem, hsameLen⟩
    simp only [State.srcLen, hsame, implies_true, and_self]
  · rw [hbusy] at hsrc
    have hchanged : ¬ s.src.SameBytes (s.src.attach true s.host.draws len cells) := by
      rw [← hsrc]
      exact fun ⟨hmem, hlen⟩ => hdiffer ⟨hlen, hmem⟩
    have hdisturb := Source.attach_busy_disturb hchanged
    rw [← hsrc] at hdisturb
    obtain ⟨hlo, hhi⟩ := Source.engineLen_between hdisturb (by dsimp only; omega)
    exact ⟨_, _, rfl, hdisturb, hlo, hhi, Source.byte_disturbed hdisturb⟩

end Sys2Proof.Machine
end

section
/-! SUPPORT. Command words by their fields (R110): which words a row of R113 selects, and which words are encodings. -/

namespace Sys2Proof

/-- The fields of R110 make up the whole word. -/
theorem fieldsOf_inj {w w' : Word} : fieldsOf w = fieldsOf w' ↔ w = w' := by
  refine ⟨fun h => BitVec.eq_of_toNat_eq ?_, congrArg _⟩
  simp only [fieldsOf, CmdFields.mk.injEq, ← BitVec.toNat_inj, BitVec.extractLsb'_toNat, Nat.shiftRight_eq_div_pow] at h
  omega

@[simp] theorem fieldsOf_cmdWord (imm8 op : Byte) : fieldsOf (cmdWord imm8 op) = ⟨0, imm8, op⟩ := by
  have hfields : cmdWord imm8 op = Machine.field 0 op ||| Machine.field 8 imm8 := by simp [cmdWord, Machine.field]
  simp [fieldsOf, hfields, BitVec.extractLsb'_or]

theorem eq_cmdWord_iff {w : Word} {imm8 op : Byte} : w = cmdWord imm8 op ↔ fieldsOf w = ⟨0, imm8, op⟩ := by
  rw [← fieldsOf_inj, fieldsOf_cmdWord]

/-- A mask acts on each field by itself. -/
theorem fieldsOf_and (w m : Word) : fieldsOf (w &&& m) =
    ⟨(fieldsOf w).rsvd &&& (fieldsOf m).rsvd, (fieldsOf w).imm8 &&& (fieldsOf m).imm8, (fieldsOf w).op &&& (fieldsOf m).op⟩ := by
  simp [fieldsOf, BitVec.extractLsb'_and]

/-! The rows of R113 -/

theorem Row.selects_iff {r : Row} {w : Word} : r.selects w = true ↔ w &&& r.mask = r.pattern := beq_iff_eq

/-- The OP column of R113 is the list of its OP values, each of which stands once. -/
theorem opcodeMap_ops : opcodeMap.map (fun r => (fieldsOf r.pattern).op) = CmdFields.ops := by decide

/-- Every mask of R113 covers the OP field. -/
theorem op_eq_of_selects {r : Row} (hr : r ∈ opcodeMap) {w : Word} (h : w &&& r.mask = r.pattern) :
    (fieldsOf w).op = (fieldsOf r.pattern).op := by
  have hmask : ∀ r ∈ opcodeMap, (fieldsOf r.mask).op = BitVec.allOnes 8 := by decide
  rw [← h, fieldsOf_and, hmask r hr, BitVec.and_allOnes]

/-- No word selects two rows (R113): they would share its OP. -/
theorem row_eq_of_selects {r r' : Row} (hr : r ∈ opcodeMap) (hr' : r' ∈ opcodeMap) {w : Word}
    (h : w &&& r.mask = r.pattern) (h' : w &&& r'.mask = r'.pattern) : r = r' := by
  have hnodup : (opcodeMap.map fun r => (fieldsOf r.pattern).op).Nodup := by rw [opcodeMap_ops]; decide
  exact List.inj_on_of_nodup_map hnodup hr hr' ((op_eq_of_selects hr h).symm.trans (op_eq_of_selects hr' h'))

/-- Decoding finds the row the word selects, wherever in the table it stands. -/
theorem decode_eq_ok_iff {w : Word} {i : Instr} :
    decode w = .ok i ↔ ∃ r ∈ opcodeMap, w &&& r.mask = r.pattern ∧ r.build (fieldsOf w).imm8 = i := by
  unfold decode
  cases hfind : opcodeMap.find? (·.selects w) with
  | some r =>
    have hr := List.mem_of_find?_eq_some hfind
    have hsel : w &&& r.mask = r.pattern := Row.selects_iff.1 (by simpa using List.find?_some hfind)
    constructor
    · exact fun h => ⟨r, hr, hsel, Except.ok.inj h⟩
    · rintro ⟨r', hr', hsel', rfl⟩
      rw [row_eq_of_selects hr hr' hsel hsel']
  | none =>
    constructor
    · nofun
    · rintro ⟨r, hr, hsel, -⟩
      exact absurd (Row.selects_iff.2 hsel) (List.find?_eq_none.1 hfind r hr)

/-- `CRC_BYTE`'s mask leaves the IMM8 field out: the words of its row are those of any byte (R113). -/
theorem and_crcByteMask_iff {w : Word} : w &&& 0xFFFF00FF = 0x00000002 ↔ w = cmdWord (fieldsOf w).imm8 0x02 := by
  have hmask : fieldsOf 0xFFFF00FF = ⟨BitVec.allOnes 16, 0, BitVec.allOnes 8⟩ := by decide
  have hpattern : fieldsOf 0x00000002 = ⟨0, 0, 0x02⟩ := by decide
  rw [eq_cmdWord_iff, ← fieldsOf_inj, fieldsOf_and, hmask, hpattern, BitVec.and_allOnes, BitVec.and_allOnes]
  cases fieldsOf w
  simp

/-- A row selects exactly the encodings of its commands. -/
theorem selects_iff_eq_encode {r : Row} (hr : r ∈ opcodeMap) {w : Word} :
    w &&& r.mask = r.pattern ↔ w = encode (r.build (fieldsOf w).imm8) := by
  have hfull (p : Word) : w &&& 0xFFFFFFFF = p ↔ w = p := by rw [show w &&& 0xFFFFFFFF = w from BitVec.and_allOnes]
  simp only [opcodeMap, List.mem_cons, List.not_mem_nil, or_false] at hr
  rcases hr with rfl | rfl | rfl | rfl | rfl | rfl | rfl | rfl | rfl
  case inr.inr.inl => exact and_crcByteMask_iff
  all_goals exact hfull _

/-- Every command has its row. -/
theorem exists_row_build_eq (i : Instr) : ∃ r ∈ opcodeMap, r.build (fieldsOf (encode i)).imm8 = i := by
  cases i with
  | crcByte b => exact ⟨⟨0xFFFF00FF, 0x00000002, .crcByte⟩, by simp [opcodeMap], by simp [encode]⟩
  | _ => simp [opcodeMap]

/-- Settles O2: a row selects the encodings of its commands alone, and every command has a row. -/
theorem decodeInvertsEncode : Obligations.DecodeInvertsEncode := by
  intro w i
  rw [decode_eq_ok_iff]
  constructor
  · rintro ⟨r, hr, hsel, rfl⟩
    exact (selects_iff_eq_encode hr).1 hsel
  · rintro rfl
    obtain ⟨r, hr, hbuild⟩ := exists_row_build_eq i
    exact ⟨r, hr, (selects_iff_eq_encode hr).2 (by rw [hbuild]), hbuild⟩

/-- Settles O1: each row's word is an encoding, and two rows that select one word are one row. -/
theorem opcodeMapWordsDecode : Obligations.OpcodeMapWordsDecode := by
  have hdecode (i : Instr) : decode (encode i) = .ok i := (decodeInvertsEncode _ _).2 rfl
  refine ⟨⟨hdecode .nop, hdecode .crcClear, fun b => hdecode (.crcByte b), hdecode .crcRun, hdecode .pageCheck,
    hdecode .pageNext, hdecode .wasteClear, hdecode .streamsClear, hdecode .softReset⟩, fun w r r' hr hr' h h' => ?_⟩
  rw [row_eq_of_selects hr hr' h h']

/-! The illegal words (R114) -/

theorem encode_legal (i : Instr) : (fieldsOf (encode i)).legal = true :=
  match i with
  | .nop          => Laws.LegalFields.nop
  | .crcClear     => Laws.LegalFields.crcClear
  | .crcByte b    => Laws.LegalFields.crcByte b
  | .crcRun       => Laws.LegalFields.crcRun
  | .pageCheck    => Laws.LegalFields.pageCheck
  | .pageNext     => Laws.LegalFields.pageNext
  | .wasteClear   => Laws.LegalFields.wasteClear
  | .streamsClear => Laws.LegalFields.streamsClear
  | .softReset    => Laws.LegalFields.softReset

/-- Every OP of R113 with IMM8 0 is a command's. -/
theorem exists_encode_of_op {op : Byte} (h : op ∈ CmdFields.ops) : ∃ i, encode i = cmdWord 0 op := by
  simp only [CmdFields.ops, List.mem_cons, List.not_mem_nil, or_false] at h
  rcases h with rfl | rfl | rfl | rfl | rfl | rfl | rfl | rfl | rfl
  exacts [⟨.nop, rfl⟩, ⟨.crcClear, rfl⟩, ⟨.crcByte 0, rfl⟩, ⟨.crcRun, rfl⟩, ⟨.pageCheck, rfl⟩, ⟨.pageNext, rfl⟩,
    ⟨.wasteClear, rfl⟩, ⟨.streamsClear, rfl⟩, ⟨.softReset, rfl⟩]

/-- The fields of a word pass R114's three checks. -/
theorem CmdFields.legal_iff {f : CmdFields} :
    f.legal = true ↔ f.op ∈ CmdFields.ops ∧ f.rsvd = 0 ∧ (f.imm8 = 0 ∨ f.op = 0x02) := by
  rw [and_comm (a := f.rsvd = 0)]
  simp [legal, opKnown, immAllowed, rsvdClear, and_assoc]

/-- The words whose fields are legal are the encodings. -/
theorem exists_eq_encode_iff {w : Word} : (∃ i, w = encode i) ↔ (fieldsOf w).legal = true := by
  constructor
  · rintro ⟨i, rfl⟩
    exact encode_legal i
  · intro h
    obtain ⟨hop, hrsvd, himm⟩ := CmdFields.legal_iff.1 h
    have hw : w = cmdWord (fieldsOf w).imm8 (fieldsOf w).op := eq_cmdWord_iff.2 (by rw [← hrsvd])
    rcases himm with hzero | hbyte
    · obtain ⟨i, hi⟩ := exists_encode_of_op hop
      exact ⟨i, by rw [hi, ← hzero, ← hw]⟩
    · exact ⟨.crcByte (fieldsOf w).imm8, by rw [encode, ← hbyte, ← hw]⟩

/-- Decoding refuses exactly the words whose fields are not legal. -/
theorem exists_decode_error_iff {w : Word} : (∃ e, decode w = .error e) ↔ ¬ (fieldsOf w).legal = true := by
  rw [← exists_eq_encode_iff, not_exists]
  constructor
  · rintro ⟨e, he⟩ i hi
    rw [(decodeInvertsEncode w i).2 hi] at he
    cases he
  · intro h
    cases hd : decode w with
    | ok i => exact absurd ((decodeInvertsEncode w i).1 hd) (h i)
    | error e => exact ⟨e, rfl⟩

end Sys2Proof
end

section
/-! SUPPORT. The engine's step on a command in flight (R204, R226, R227), and the polls of WAIT (R118). -/

namespace Sys2Proof.Machine

theorem writeTarget_cmd_of_idle {s : State} (h : s.busy = false) (w : Word) : writeTarget w s (.reg .cmd) = accept w s :=
  idleOnly_of_idle h _

theorem engineStep_of_illegal {s : State} {w : Word} {e : Illegal} (hp : s.pending = some w) (hd : decode w = .error e) :
    engineStep s = .next (complete .illegal s) := by
  rw [engineStep, hp]
  dsimp only
  rw [hd]
  rfl

/-- Settles O3: a word is illegal exactly if one of R114's checks of its fields fails, and is accepted like any other. -/
theorem illegalWordsCompleteIllegal : Obligations.IllegalWordsCompleteIllegal := by
  refine ⟨fun w => ?_, fun s w hidle => ?_⟩
  · rw [exists_decode_error_iff, CmdFields.legal_iff, not_and_or, not_and_or, not_or]
    rfl
  · rw [writeTarget_cmd_of_idle hidle]
    exact ⟨accept_pending s w, fun e he => engineStep_of_illegal (accept_pending s w) he⟩

/-- A busy engine's step ends its command, legal or not, and leaves the host's side alone (R220, R227). -/
theorem engineStep_of_busy {s : State} (h : s.busy = true) :
    ∃ t, engineStep s = .next t ∧ t.busy = false ∧ t.status.done = true ∧ t.host = s.host := by
  obtain ⟨t, hstep, hengine⟩ := engineStep_cases s
  refine ⟨t, hstep, ?_⟩
  cases hengine with
  | idle hp => simp [State.busy, hp] at h
  | command hp hd he =>
    obtain ⟨-, -, hhost, hpending, hdone, -⟩ := he.frame
    exact ⟨by rw [State.busy, hpending]; rfl, hdone, hhost⟩
  | illegal => exact ⟨rfl, rfl, rfl⟩

/-! The steps of a WAIT (R118) -/

theorem run_succ_of_step {s t : State} (h : step s = .next t) (k : Nat) : core.run (k + 1) s = core.run k t := by
  have hrun {M : Host.Core} {s t : M.State} (h : M.step s = .next t) : M.run (k + 1) s = M.run k t := by
    rw [Host.Core.run, h]
  exact hrun (M := core) (s := s) h

/-- A poll has recorded STATUS, and these turns are left. -/
def polled (l : List Turn) (s : State) : State := (record (peek s (.reg .status)) s).withAgenda l

theorem polled_host (l : List Turn) (s : State) :
    (polled l s).host = ⟨l, peek s (.reg .status) :: s.host.reads, s.host.draws⟩ := rfl

theorem hostWait_of_busy {s : State} (h : s.busy = true) : hostWait s = polled (.engine :: .wait :: s.host.agenda) s := by
  simp [hostWait, readTarget, Target.definedBusy, polled, h]

theorem hostWait_of_idle {s : State} (h : s.busy = false) :
    hostWait s = polled (if s.status.done then s.host.agenda else .wait :: s.host.agenda) s := by
  simp only [hostWait, readTarget, h, polled]
  cases s.status.done <;> rfl

section
variable {s : State} {rest : List Turn}

theorem step_wait (hagenda : s.host.agenda = .wait :: rest) : step s = .next (hostWait (s.withAgenda rest)) := by
  rw [step, hagenda]
  rfl

/-- A poll of a busy block gives the engine the next turn and polls again. -/
theorem step_wait_of_busy (hbusy : s.busy = true) (hagenda : s.host.agenda = .wait :: rest) :
    step s = .next (polled (.engine :: .wait :: rest) s) := by
  rw [step_wait hagenda, hostWait_of_busy (s := s.withAgenda rest) hbusy]
  rfl

/-- A poll of an idle block ends the WAIT if `DONE = 1` and is repeated if `DONE = 0`. -/
theorem step_wait_of_idle (hidle : s.busy = false) (hagenda : s.host.agenda = .wait :: rest) :
    step s = .next (polled (if s.status.done then rest else .wait :: rest) s) := by
  rw [step_wait hagenda, hostWait_of_idle (s := s.withAgenda rest) hidle]
  rfl

theorem step_engine_of_busy (hbusy : s.busy = true) (hagenda : s.host.agenda = .engine :: rest) :
    ∃ t, step s = .next t ∧ t.busy = false ∧ t.status.done = true ∧ t.host = ⟨rest, s.host.reads, s.host.draws⟩ := by
  have hstep : step s = engineStep (s.withAgenda rest) := by
    rw [step, hagenda]
    rfl
  rw [hstep]
  exact engineStep_of_busy hbusy

/-- WAIT on a command in flight: a poll, the command, and a poll that ends the WAIT. -/
theorem run_wait_of_busy (hbusy : s.busy = true) (hagenda : s.host.agenda = .wait :: rest) :
    ∃ t, t.busy = false ∧ t.status.done = true ∧
      t.host = ⟨.wait :: rest, peek s (.reg .status) :: s.host.reads, s.host.draws⟩ ∧
      core.run 3 s = .next (polled rest t) := by
  have hpoll := step_wait_of_busy hbusy hagenda
  obtain ⟨t, hcommand, hidle, hdone, hhost⟩ := step_engine_of_busy (s := polled (.engine :: .wait :: rest) s) hbusy rfl
  have hlast := step_wait_of_idle hidle (congrArg HostSide.agenda hhost)
  rw [if_pos hdone] at hlast
  refine ⟨t, hidle, hdone, hhost, ?_⟩
  calc core.run 3 s
    _ = core.run 2 (polled (.engine :: .wait :: rest) s) := run_succ_of_step hpoll 2
    _ = core.run 1 t := run_succ_of_step hcommand 1
    _ = .next (polled rest t) := run_succ_of_step hlast 0

end

/-- Settles O10: a poll that shows BUSY, the command, and a poll that ends the WAIT; of an idle block, one poll. -/
theorem waitPollsUntilDone : Obligations.WaitPollsUntilDone := by
  refine ⟨fun s rest hbusy hagenda => ?_, fun s rest hidle hagenda => ?_⟩
  · obtain ⟨t, hidle, hdone, hhost, hrun⟩ := run_wait_of_busy hbusy hagenda
    obtain ⟨w, rfl, hbusyBit, -⟩ := statusWordLayout s
    obtain ⟨w', rfl, hidleBit, hdoneBit, -⟩ := statusWordLayout t
    refine ⟨_, _, _, hrun, hidle, rfl, ?_, hbusyBit.trans hbusy, hidleBit.trans hidle, hdoneBit.trans hdone, ?_⟩ <;>
      rw [polled_host, hhost]
  · obtain ⟨w, rfl, hbusyBit, hdoneBit, -⟩ := statusWordLayout s
    exact ⟨_, rfl, hbusyBit.trans hidle, hdoneBit, step_wait_of_idle hidle hagenda⟩

end Sys2Proof.Machine
end

section
/-! SUPPORT. The CRC of byte lists (R131 to R134): its table form, its linearity, and that every byte counts. -/

namespace Sys2Proof.Machine

/-! The table form (R133) -/

/-- Passes that shift nothing out of the state only shift. -/
theorem crcShifts_of_lt : ∀ {n : Nat} {a : Word}, a.toNat * 2 ^ n < 2 ^ 32 → crcShifts n a = a <<< n
  | 0, _, _ => by simp [crcShifts]
  | n + 1, a, h => by
    rw [Nat.pow_succ', ← Nat.mul_assoc] at h
    have hdouble : a.toNat * 2 < 2 ^ 32 := Nat.lt_of_le_of_lt (Nat.le_mul_of_pos_right _ (Nat.two_pow_pos n)) h
    have hmsb : a.msb = false := BitVec.msb_eq_false_iff_two_mul_lt.2 (by rwa [Nat.mul_comm])
    have hshift : crcShift a = a <<< 1 := by simp [crcShift, hmsb]
    have hnat : (a <<< 1).toNat = a.toNat * 2 := by
      rw [BitVec.toNat_shiftLeft, Nat.shiftLeft_eq, Nat.pow_one, Nat.mod_eq_of_lt hdouble]
    rw [crcShifts, hshift, crcShifts_of_lt (by rwa [hnat]), ← BitVec.shiftLeft_add, Nat.add_comm]

/-- A byte of the state's top and the byte folded are folded as one (R131). -/
theorem crcUpdate_top (x b : Byte) : crcUpdate (x.setWidth 32 <<< 24) b = crcUpdate 0 (x ^^^ b) := by
  simp [crcUpdate, BitVec.setWidth_xor, BitVec.shiftLeft_xor_distrib]

/-- The state is its low 24 bits and its top byte. -/
theorem low_xor_top (c : Word) :
    (c.extractLsb' 0 24).setWidth 32 ^^^ ((c.extractLsb' 24 8).setWidth 32 <<< 24) = c := by
  apply BitVec.eq_of_getLsbD_eq
  intro i hi
  by_cases h : i < 24
  · simp [h, hi]
  · simp [h, hi, show i - 24 < 8 by omega, show 24 + (i - 24) = i by omega]

/-- The state's low 24 bits are shifted by eight passes and nothing else. -/
theorem crcUpdate_low (c : Word) : crcUpdate ((c.extractLsb' 0 24).setWidth 32) 0 = c <<< 8 := by
  have hlt : ((c.extractLsb' 0 24).setWidth 32).toNat * 2 ^ 8 < 2 ^ 32 := by
    rw [BitVec.toNat_setWidth]; omega
  calc crcUpdate ((c.extractLsb' 0 24).setWidth 32) 0
    _ = crcShifts 8 ((c.extractLsb' 0 24).setWidth 32) := by simp [crcUpdate]
    _ = (c.extractLsb' 0 24).setWidth 32 <<< 8 := crcShifts_of_lt hlt
    _ = c <<< 8 := by
      apply BitVec.eq_of_getLsbD_eq
      intro i hi
      simp [hi, show i - 8 < 24 by omega, BitVec.getLsbD_eq_getElem (show i - 8 < 32 by omega)]

theorem crcUpdate_eq_table (c : Word) (b : Byte) :
    crcUpdate c b = (c <<< 8) ^^^ crcUpdate 0 (c.extractLsb' 24 8 ^^^ b) := by
  calc crcUpdate c b
    _ = crcUpdate ((c.extractLsb' 0 24).setWidth 32 ^^^ ((c.extractLsb' 24 8).setWidth 32 <<< 24)) (0 ^^^ b) := by
      rw [low_xor_top, show 0 ^^^ b = b from BitVec.zero_xor]
    _ = (c <<< 8) ^^^ crcUpdate 0 (c.extractLsb' 24 8 ^^^ b) := by rw [crcUpdate_xor, crcUpdate_low, crcUpdate_top]

/-- Settles O30: the top byte leaves the state through the table, the low bits are only shifted. -/
theorem crcTableForm : Obligations.CrcTableForm :=
  ⟨crcUpdate_eq_table, by decide⟩

/-! Zeros, linearity and flips (R134) -/

@[simp] theorem crcUpdate_zero_zero : crcUpdate 0 0 = 0 := by decide

theorem crcBytes_replicate_zero (n : Nat) : crcBytes 0 (List.replicate n 0) = 0 := by
  induction n with
  | zero => rfl
  | succ n ih => rw [List.replicate_succ, crcBytes, crcUpdate_zero_zero, ih]

theorem crcBytes_zipWith_xor : ∀ (a b : Word) {xs ys : List Byte}, xs.length = ys.length →
    crcBytes (a ^^^ b) (List.zipWith (· ^^^ ·) xs ys) = crcBytes a xs ^^^ crcBytes b ys
  | _, _, [], [], _ => rfl
  | a, b, x :: xs, y :: ys, h => by
    rw [List.zipWith_cons_cons, crcBytes, crcUpdate_xor, crcBytes_zipWith_xor _ _ (Nat.succ.inj h)]
    rfl

/-- From any state, a list with one byte changed has another CRC. -/
theorem crcBytes_set_ne {b : Byte} : ∀ (c : Word) {xs : List Byte} {i : Nat}, i < xs.length → b ≠ xs.getD i 0 →
    crcBytes c (xs.set i b) ≠ crcBytes c xs
  | _, _ :: _, 0, _, hb => fun h => hb (crcUpdate_byte_injective (crcBytes_state_injective h))
  | c, x :: _, _ + 1, hi, hb => crcBytes_set_ne (crcUpdate c x) (Nat.lt_of_succ_lt_succ hi) hb

/-- A byte with one bit flipped is another byte. -/
theorem xor_bit_ne (b : Byte) {k : Nat} (hk : k < 8) : b ^^^ (1#8 <<< k) ≠ b := by
  intro h
  have hbit : (b ^^^ (1#8 <<< k)).getLsbD k = b.getLsbD k := by rw [h]
  simp [hk] at hbit

/-- Settles O31: each part is an induction along the list. -/
theorem crcIsLinearAndSeesEveryBit : Obligations.CrcIsLinearAndSeesEveryBit := by
  refine ⟨fun n xs => ⟨crcBytes_replicate_zero n, ?_⟩, fun xs ys h => crcBytes_zipWith_xor 0 0 h,
    fun xs i k hi hk => crcBytes_set_ne 0 hi (xor_bit_ne _ hk)⟩
  rw [crcBytes_append, crcBytes_replicate_zero]

/-! The update over numbers (R131) -/

theorem crcShift_toNat (c : Word) : (crcShift c).toNat =
    if 2 ^ 31 ≤ c.toNat then ((2 * c.toNat) % 2 ^ 32) ^^^ 0x04C11DB7 else 2 * c.toNat := by
  have hdouble : (c <<< 1).toNat = (2 * c.toNat) % 2 ^ 32 := by
    rw [BitVec.toNat_shiftLeft, Nat.shiftLeft_eq, Nat.mul_comm]
  simp only [crcShift, BitVec.msb_eq_decide, decide_eq_true_eq]
  split
  · rw [BitVec.toNat_xor, hdouble]; rfl
  · rw [hdouble]; omega

/-- The byte at the top of a word, as a number. -/
theorem setWidth_shiftLeft_24 (b : Byte) : b.setWidth 32 <<< 24 = BitVec.ofNat 32 (b.toNat * 2 ^ 24) := by
  apply BitVec.eq_of_toNat_eq
  simp [Nat.shiftLeft_eq]

/-- Settles O32: one pass over numbers; the rest is the definitions of the update and of the fold. -/
theorem crcUpdateOverNumbers : Obligations.CrcUpdateOverNumbers := by
  refine ⟨crcShift_toNat, fun c b => ?_, fun _ _ _ => ⟨rfl, rfl⟩, crcBytes_append⟩
  rw [crcUpdate, setWidth_shiftLeft_24]
  rfl

end Sys2Proof.Machine
end

section
/-! SUPPORT. Checking a page whose CRC field holds any value (R151, R157). -/

namespace Sys2Proof.Machine

/-- A candidate that passes every check before the CRC comparison is decided by it (R151). -/
theorem pageCheck_eq_checkCrc {s : State} {c n : Nat} {h segs : List Byte}
    (hcapture : s.memRead .capture c 4 = capturePattern)
    (hheader : s.memRead .header c hdrLen = h) (hversion : byteAt h 4 = 0) (hn : (byteAt h 26).toNat = n)
    (hnseg : n = 0 → s.ctrl.nseg0Accept = true) (hsegs : s.memRead .segTable (c + hdrLen) n = segs)
    (hfits : c + (hdrLen + n + segSum segs) ≤ s.srcLen) :
    pageCheck s c = checkCrc s c h segs (s.memRead (.payload c) (c + hdrLen + n) (segSum segs)) := by
  subst hn hsegs
  have hcaptureAt : captureAt s .capture c = true := by rw [captureAt, hcapture]; rfl
  have hno : ¬ (byteAt h 26 = 0 ∧ s.ctrl.nseg0Accept = false) := by
    rintro ⟨hzero, hreject⟩
    rw [hnseg (by rw [hzero]; rfl)] at hreject
    cases hreject
  have hhdr : hdrLen = 27 := rfl
  have havail : s.avail c = s.srcLen - c := rfl
  rw [pageCheck, if_neg (by omega), if_neg (not_or.2 ⟨by omega, by simp [hcaptureAt]⟩), if_neg (by omega), hheader,
    checkHeader, if_neg (not_not.2 hversion), if_neg hno]
  simp only [checkTable]
  rw [if_neg (by omega), if_neg (by omega)]

/-- The engine reads a middle part of what the source holds. -/
theorem State.holdsAt.memRead_middle {s : State} {c : Nat} {xs ys zs : List Byte} (h : s.holdsAt c (xs ++ ys ++ zs))
    (site : ReadSite) {j n : Nat} (hj : xs.length = j) (hn : ys.length = n) : s.memRead site (c + j) n = ys := by
  subst hj hn
  rw [h.memRead site (by simp)]
  simp [slice]

theorem PageFields.wellFormed_iff (f : PageFields) :
    f.wellFormed = true ↔ f.segs.length ≤ 255 ∧ f.payload.length = segSum f.segs := by
  simp [PageFields.wellFormed]

/-- The fixed header of a page with this value in its CRC field (R150). -/
def PageFields.headerWith (f : PageFields) (crc : Word) : List Byte :=
  f.front ++ leBytes 4 crc.toNat ++ [BitVec.ofNat 8 f.segs.length]

theorem PageFields.front_append_back (f : PageFields) (crc : Word) :
    f.front ++ leBytes 4 crc.toNat ++ f.back = f.headerWith crc ++ f.segs ++ f.payload := by
  simp [headerWith, back]

section
variable (f : PageFields) (crc : Word)

theorem PageFields.headerWith_length : (f.headerWith crc).length = hdrLen := rfl

theorem PageFields.byteAt_headerWith_version : byteAt (f.headerWith crc) 4 = 0 := rfl

theorem PageFields.byteAt_headerWith_nseg : byteAt (f.headerWith crc) 26 = BitVec.ofNat 8 f.segs.length := rfl

theorem PageFields.storedCrc_headerWith : storedCrc (f.headerWith crc) = crc := by
  have hfield : slice (f.headerWith crc) 22 4 = leBytes 4 crc.toNat := rfl
  rw [storedCrc, hfield, leNat_leBytes, show 256 ^ 4 = 2 ^ 32 from rfl, Nat.mod_eq_of_lt crc.isLt,
    BitVec.ofNat_toNat, BitVec.setWidth_eq]

/-- The bytes the CRC covers are the page's, its CRC field zeroed, whatever that field held (R157). -/
theorem PageFields.crcBytes_crcCover_headerWith :
    crcBytes crcInit (crcCover (f.headerWith crc) f.segs f.payload) = f.crc := by
  have hfront : (f.headerWith crc).take 22 = f.front := rfl
  rw [crcCover, hfront, byteAt_headerWith_nseg, PageFields.crc, back]
  simp

theorem PageFields.checkCrc_headerWith (s : State) (c : Nat) :
    checkCrc s c (f.headerWith crc) f.segs f.payload =
      (s.setCrcPair ⟨crc, f.crc⟩, if f.crc = crc then .ok (pageOf c (f.headerWith crc) f.segs) else .rejected .crc) := by
  rw [checkCrc, f.crcBytes_crcCover_headerWith, f.storedCrc_headerWith]

end

/-- The CRC comparison decides over a page laid out with any value in its CRC field. -/
theorem pageCheck_of_holdsAt {s : State} {c : Nat} {f : PageFields} {crc : Word} (hf : f.wellFormed = true)
    (h : s.holdsAt c (f.front ++ leBytes 4 crc.toNat ++ f.back)) (hnseg : f.segs = [] → s.ctrl.nseg0Accept = true) :
    pageCheck s c = checkCrc s c (f.headerWith crc) f.segs f.payload := by
  obtain ⟨hfew, hsum⟩ := f.wellFormed_iff.1 hf
  rw [f.front_append_back] at h
  have hn : (byteAt (f.headerWith crc) 26).toNat = f.segs.length := by
    rw [f.byteAt_headerWith_nseg, BitVec.toNat_ofNat]; omega
  have hfits : c + (hdrLen + f.segs.length + segSum f.segs) ≤ s.srcLen := by
    have := h.2.1
    rwa [← State.srcLen_calm h.1, List.length_append, List.length_append, f.headerWith_length, hsum] at this
  have hcapture : s.memRead .capture c 4 = capturePattern :=
    h.memRead .capture (j := 0) (by rw [List.length_append, List.length_append, f.headerWith_length, hdrLen]; omega)
  have hheader : s.memRead .header c hdrLen = f.headerWith crc := by
    rw [List.append_assoc] at h
    exact h.memRead_middle (xs := []) .header rfl (f.headerWith_length crc)
  have hsegs : s.memRead .segTable (c + hdrLen) f.segs.length = f.segs :=
    h.memRead_middle .segTable (f.headerWith_length crc) rfl
  have hpayload : s.memRead (.payload c) (c + hdrLen + f.segs.length) (segSum f.segs) = f.payload := by
    rw [← List.append_nil (_ ++ f.payload)] at h
    rw [Nat.add_assoc]
    exact h.memRead_middle (.payload c) (by rw [List.length_append, f.headerWith_length]) hsum
  have hsome (hzero : f.segs.length = 0) : s.ctrl.nseg0Accept = true := hnseg (List.eq_nil_of_length_eq_zero hzero)
  rw [pageCheck_eq_checkCrc hcapture hheader (f.byteAt_headerWith_version crc) hn hsome hsegs hfits, hpayload]

/-- A page whose CRC field does not hold its CRC is rejected (R157). -/
theorem pageCheck_rejects_wrong_crc {s : State} {c : Nat} {f : PageFields} {crc : Word} (hf : f.wellFormed = true)
    (h : s.holdsAt c (f.front ++ leBytes 4 crc.toNat ++ f.back)) (hnseg : f.segs = [] → s.ctrl.nseg0Accept = true)
    (hcrc : f.crc ≠ crc) : (pageCheck s c).2 = .rejected .crc := by
  rw [pageCheck_of_holdsAt hf h hnseg, f.checkCrc_headerWith, if_neg hcrc]

/-- A page's CRC ends with its payload. -/
theorem PageFields.crc_withPayload (f : PageFields) (payload : List Byte) :
    PageFields.crc { f with payload := payload } =
      crcBytes (crcBytes crcInit (f.front ++ [0, 0, 0, 0] ++ [BitVec.ofNat 8 f.segs.length] ++ f.segs)) payload := by
  rw [← crcBytes_append]
  simp [PageFields.crc, back, front]

/-- Settles O39: the flipped payload has another CRC than the one the page keeps in its CRC field. -/
theorem payloadBitFlipIsRejected : Obligations.PayloadBitFlipIsRejected := by
  rintro s c i k f g hf hi hk rfl h
  obtain ⟨hfew, hsum⟩ := f.wellFormed_iff.1 hf
  refine pageCheck_rejects_wrong_crc ?_ h (fun hnil => ?_) ?_
  · rw [PageFields.wellFormed_iff, List.length_set]
    exact ⟨hfew, hsum⟩
  · rw [hsum, show f.segs = [] from hnil] at hi
    cases hi
  · rw [f.crc_withPayload, show f.crc = _ from f.crc_withPayload f.payload]
    exact crcBytes_set_ne _ hi (xor_bit_ne _ hk)

end Sys2Proof.Machine
end

section
/-! SUPPORT. The commands of the CRC family (R135 to R137). -/

namespace Sys2Proof.Machine

/-- What completion with a result that is no error changes (R222). -/
theorem complete_ok (s : State) : complete .ok s =
    { s with
      src := s.src.settle
      pending := none
      status := { s.status with result := .ok, done := true } } := by
  simp only [complete, Status.completed, ResultCode.isError, Bool.or_false]
  rfl

/-- What completion with an error changes (R222, R223). -/
theorem complete_of_isError {code : ResultCode} (h : code.isError = true) (s : State) : complete code s =
    { s with
      src := s.src.settle
      pending := none
      status := { s.status with result := code, done := true, err := true } } := by
  simp only [complete, Status.completed, h, Bool.or_true]
  rfl

/-- Settling a source that nothing has changed while busy changes nothing. -/
theorem Source.settle_calm {r : Source} (h : r.disturb = none) : r.settle = r := by
  rw [Source.settle, ← h]

/-- Settles O33: completion adds nothing to the cleared accumulator. -/
theorem crcClearRule : Obligations.CrcClearRule :=
  ⟨(decodeInvertsEncode _ _).2 rfl, fun s => ⟨_, rfl, rfl, rfl, complete_ok (s.setCrc 0)⟩⟩

/-- Settles O34: the words under the mask are the encodings, and completion adds nothing to the update. -/
theorem crcByteRule : Obligations.CrcByteRule :=
  ⟨fun _ => (decodeInvertsEncode _ _).2 rfl, fun _ hw => (decodeInvertsEncode _ _).2 (and_crcByteMask_iff.1 hw),
    fun b s => ⟨_, rfl, rfl, rfl, complete_ok (s.setCrc (crcUpdate s.crc b))⟩, by decide⟩

/-- Settles O35: the two branches of the command, each completed over a source that stays as it is. -/
theorem crcRunRule : Obligations.CrcRunRule := by
  refine ⟨(decodeInvertsEncode _ _).2 rfl, fun s hcalm => ?_⟩
  obtain ⟨t, hexec, he⟩ := exec_executed .crcRun s
  refine ⟨_, _, _, _, t, rfl, rfl, rfl, rfl, hexec, he.src.trans (Source.settle_calm hcalm), ?_⟩
  rw [← State.srcLen_calm hcalm, ← s.memRead_calm hcalm .crcRun]
  cases he with
  | crcRun hfits =>
    refine ⟨fun hshort => absurd hfits (by omega), fun _ => ?_⟩
    rw [complete_ok, State.setCrc_src, Source.settle_calm hcalm]
    rfl
  | crcRunShort hshort =>
    refine ⟨fun _ => ?_, fun hfits => absurd hfits (by omega)⟩
    rw [complete_of_isError rfl, Source.settle_calm hcalm]

end Sys2Proof.Machine
end

section
/-! SUPPORT. The checks of PageCheck, one by one (R151 to R158), and the fields of a page read back from its bytes (R150). -/

namespace Sys2Proof.Machine

/-! The record of a page laid out from its fields (R150, R151) -/

/-- A register's number, written out and read again (R89). -/
theorem ofNat_leNat_leBytes {n : Nat} (x : BitVec (8 * n)) : BitVec.ofNat (8 * n) (leNat (leBytes n x.toNat)) = x := by
  rw [leNat_leBytes, ← Nat.pow_mul 2 8 n, Nat.mod_eq_of_lt x.isLt, BitVec.ofNat_toNat, BitVec.setWidth_eq]

theorem pageOf_headerWith {f : PageFields} (hfew : f.segs.length ≤ 255) (crc : Word) (c : Nat) :
    pageOf c (f.headerWith crc) f.segs = f.page c := by
  have hgran : slice (f.headerWith crc) 6 8 = leBytes 8 f.gran.toNat := rfl
  have hserial : slice (f.headerWith crc) 14 4 = leBytes 4 f.serial.toNat := rfl
  have hseq : slice (f.headerWith crc) 18 4 = leBytes 4 f.seq.toNat := rfl
  have hn : (byteAt (f.headerWith crc) 26).toNat = f.segs.length := by
    rw [f.byteAt_headerWith_nseg, BitVec.toNat_ofNat]; omega
  simp only [pageOf, hgran, hserial, hseq, hn, ofNat_leNat_leBytes (n := 8), ofNat_leNat_leBytes (n := 4)]
  rfl

/-- Settles O37: the checks before the CRC comparison pass, and the CRC field holds the CRC. -/
theorem everyPageIsAccepted : Obligations.EveryPageIsAccepted := by
  intro s c f hf h hnseg
  obtain ⟨hfew, -⟩ := f.wellFormed_iff.1 hf
  rw [pageCheck_of_holdsAt hf h hnseg, f.checkCrc_headerWith, if_pos rfl, pageOf_headerWith hfew]

/-! Numbers from bytes, and a list cut into slices -/

/-- A number of at most `n` bytes fits a register of `8 n` bits (R9). -/
theorem ofNat_leNat_slice_toNat (h : List Byte) (i n : Nat) :
    (BitVec.ofNat (8 * n) (leNat (slice h i n))).toNat = leNat (slice h i n) := by
  have hlen : (slice h i n).length ≤ n := by rw [slice_length]; exact Nat.min_le_left _ _
  rw [BitVec.toNat_ofNat, Nat.pow_mul]
  exact Nat.mod_eq_of_lt (Nat.lt_of_lt_of_le (leNat_lt _) (Nat.pow_le_pow_right (by decide) hlen))

/-- Writing out the number a slice makes gives the slice back (R89). -/
theorem leBytes_leNat_slice {h : List Byte} {i n : Nat} (hfits : i + n ≤ h.length) :
    leBytes n (BitVec.ofNat (8 * n) (leNat (slice h i n))).toNat = slice h i n := by
  have hlen : (slice h i n).length = n := by rw [slice_length]; omega
  have hback := leBytes_leNat (slice h i n)
  rwa [hlen, ← ofNat_leNat_slice_toNat] at hback

theorem slice_append_slice (h : List Byte) (i m n : Nat) : slice h i m ++ slice h (i + m) n = slice h i (m + n) := by
  rw [slice, slice, slice, List.take_add, List.drop_drop]

theorem slice_one {h : List Byte} {i : Nat} (hi : i < h.length) : slice h i 1 = [byteAt h i] := by
  rw [slice, List.drop_eq_getElem_cons hi, List.take_succ_cons, List.take_zero, byteAt,
    List.getD_eq_getElem _ _ hi]

/-! The checks in their order (R152) -/

section
variable {s : State} {c : Nat}

theorem captureAt_iff {site : ReadSite} {o : Nat} : captureAt s site o = true ↔ s.memRead site o 4 = capturePattern :=
  beq_iff_eq

theorem pageCheck_of_no_capture (hc : c < s.srcLen)
    (h : s.srcLen < c + 4 ∨ s.memRead .capture c 4 ≠ capturePattern) : pageCheck s c = (s, .rejected .capture) := by
  have hno : s.avail c < 4 ∨ captureAt s .capture c = false :=
    h.imp (fun hshort => by rw [State.avail]; omega) fun hne => by rwa [← Bool.not_eq_true, captureAt_iff]
  rw [pageCheck, if_neg (by omega), if_pos hno]

theorem pageCheck_of_capture (hfour : c + 4 ≤ s.srcLen) (h : s.memRead .capture c 4 = capturePattern) :
    pageCheck s c =
      if s.srcLen < c + hdrLen then (s, .truncated) else checkHeader s c (s.memRead .header c hdrLen) := by
  have hyes : ¬ (s.avail c < 4 ∨ captureAt s .capture c = false) := by
    rw [captureAt_iff.2 h, State.avail, not_or]
    exact ⟨by omega, Bool.noConfusion⟩
  have hshort : s.avail c < hdrLen ↔ s.srcLen < c + hdrLen := by rw [State.avail, hdrLen]; omega
  rw [pageCheck, if_neg (by omega), if_neg hyes]
  simp only [hshort]

/-- What the CRC comparison decides over: a header, a segment table and a payload that passed every other check. -/
structure Compared (s : State) (c : Nat) (hdr segs payload : List Byte) : Prop where
  capture : s.memRead .capture c 4 = capturePattern
  header  : s.memRead .header c hdrLen = hdr
  version : byteAt hdr 4 = 0
  nseg    : (byteAt hdr 26).toNat = 0 → s.ctrl.nseg0Accept = true
  table   : s.memRead .segTable (c + hdrLen) (byteAt hdr 26).toNat = segs
  payload : s.memRead (.payload c) (c + hdrLen + (byteAt hdr 26).toNat) (segSum segs) = payload
  fits    : c + (hdrLen + (byteAt hdr 26).toNat + segSum segs) ≤ s.srcLen

theorem Compared.pageCheck {hdr segs payload : List Byte} (h : Compared s c hdr segs payload) :
    pageCheck s c = checkCrc s c hdr segs payload := by
  rw [pageCheck_eq_checkCrc h.capture h.header h.version rfl h.nseg h.table h.fits, h.payload]

section
variable {hdr : List Byte} (hfits : c + hdrLen ≤ s.srcLen) (hcapture : s.memRead .capture c 4 = capturePattern)
  (hheader : s.memRead .header c hdrLen = hdr)
include hfits hcapture hheader

theorem pageCheck_eq_checkHeader : pageCheck s c = checkHeader s c hdr := by
  have hfour : c + 4 ≤ s.srcLen := by rw [hdrLen] at hfits; omega
  rw [pageCheck_of_capture hfour hcapture, if_neg (Nat.not_lt.2 hfits), hheader]

theorem pageCheck_of_version (hversion : byteAt hdr 4 ≠ 0) : pageCheck s c = (s, .rejected .version) := by
  rw [pageCheck_eq_checkHeader hfits hcapture hheader, checkHeader, if_pos hversion]

theorem pageCheck_of_no_segments (hversion : byteAt hdr 4 = 0)
    (hnone : (byteAt hdr 26).toNat = 0 ∧ s.ctrl.nseg0Accept = false) : pageCheck s c = (s, .rejected .nseg) := by
  rw [pageCheck_eq_checkHeader hfits hcapture hheader, checkHeader, if_neg (not_not.2 hversion),
    if_pos ⟨BitVec.eq_of_toNat_eq hnone.1, hnone.2⟩]

theorem pageCheck_of_short_body (hversion : byteAt hdr 4 = 0)
    (hsome : ¬ ((byteAt hdr 26).toNat = 0 ∧ s.ctrl.nseg0Accept = false))
    (hshort : s.srcLen < c + hdrLen + (byteAt hdr 26).toNat +
      segSum (s.memRead .segTable (c + hdrLen) (byteAt hdr 26).toNat)) : pageCheck s c = (s, .truncated) := by
  rw [pageCheck_eq_checkHeader hfits hcapture hheader, checkHeader, if_neg (not_not.2 hversion),
    if_neg fun hnone => hsome ⟨congrArg BitVec.toNat hnone.1, hnone.2⟩]
  simp only [checkTable, State.avail]
  exact ite_eq_left_iff.2 fun _ => if_pos (by omega)

omit hfits in
theorem compared_of_body (hversion : byteAt hdr 4 = 0)
    (hsome : ¬ ((byteAt hdr 26).toNat = 0 ∧ s.ctrl.nseg0Accept = false))
    (hbody : ¬ s.srcLen < c + hdrLen + (byteAt hdr 26).toNat +
      segSum (s.memRead .segTable (c + hdrLen) (byteAt hdr 26).toNat)) :
    Compared s c hdr (s.memRead .segTable (c + hdrLen) (byteAt hdr 26).toNat) (s.memRead (.payload c)
      (c + hdrLen + (byteAt hdr 26).toNat) (segSum (s.memRead .segTable (c + hdrLen) (byteAt hdr 26).toNat))) where
  capture := hcapture
  header  := hheader
  version := hversion
  nseg    := fun hzero => Bool.eq_true_of_not_eq_false fun hfalse => hsome ⟨hzero, hfalse⟩
  table   := rfl
  payload := rfl
  fits    := by omega

end

/-! The CRC comparison (R157) -/

section
variable {hdr segs payload : List Byte}

theorem checkCrc_of_ne (h : crcBytes crcInit (crcCover hdr segs payload) ≠ storedCrc hdr) :
    (checkCrc s c hdr segs payload).2 = .rejected .crc :=
  if_neg h

theorem checkCrc_of_eq (h : crcBytes crcInit (crcCover hdr segs payload) = storedCrc hdr) :
    (checkCrc s c hdr segs payload).2 = .ok (pageOf c hdr segs) :=
  if_pos h

end

/-- The verdicts that the CRC comparison gives (R157). -/
def Verdict.byCrc : Verdict → Bool
  | .ok _          => true
  | .rejected .crc => true
  | _              => false

/-- `PageCheck` reaches the CRC comparison, or an earlier check decides and leaves the state alone (R152, R158). -/
theorem pageCheck_compared_or_early (s : State) (c : Nat) :
    (∃ hdr segs payload, Compared s c hdr segs payload) ∨ ∃ v, v.byCrc = false ∧ pageCheck s c = (s, v) := by
  by_cases hend : s.srcLen ≤ c
  · exact .inr ⟨_, rfl, pageCheck_eoi hend⟩
  by_cases hno : s.srcLen < c + 4 ∨ s.memRead .capture c 4 ≠ capturePattern
  · exact .inr ⟨_, rfl, pageCheck_of_no_capture (Nat.lt_of_not_le hend) hno⟩
  rw [not_or, not_not] at hno
  obtain ⟨hfour, hcapture⟩ := hno
  by_cases hshort : s.srcLen < c + hdrLen
  · exact .inr ⟨_, rfl, (pageCheck_of_capture (Nat.le_of_not_lt hfour) hcapture).trans (if_pos hshort)⟩
  have hfits := Nat.le_of_not_lt hshort
  obtain ⟨hdr, hheader⟩ : ∃ hdr, s.memRead .header c hdrLen = hdr := ⟨_, rfl⟩
  by_cases hversion : byteAt hdr 4 = 0
  · by_cases hnone : (byteAt hdr 26).toNat = 0 ∧ s.ctrl.nseg0Accept = false
    · exact .inr ⟨_, rfl, pageCheck_of_no_segments hfits hcapture hheader hversion hnone⟩
    · by_cases hbody : s.srcLen < c + hdrLen + (byteAt hdr 26).toNat +
          segSum (s.memRead .segTable (c + hdrLen) (byteAt hdr 26).toNat)
      · exact .inr ⟨_, rfl, pageCheck_of_short_body hfits hcapture hheader hversion hnone hbody⟩
      · exact .inl ⟨_, _, _, compared_of_body hcapture hheader hversion hnone hbody⟩
  · exact .inr ⟨_, rfl, pageCheck_of_version hfits hcapture hheader hversion⟩

/-- Only the CRC comparison changes the state (R158). -/
theorem pageCheck_state_of_early {t : State} {v : Verdict} (h : pageCheck s c = (t, v)) (hv : v.byCrc = false) :
    t = s := by
  rcases pageCheck_compared_or_early s c with ⟨hdr, segs, payload, hcompared⟩ | ⟨w, -, hcheck⟩
  · rw [hcompared.pageCheck, checkCrc] at h
    obtain ⟨-, rfl⟩ := Prod.ext_iff.1 h
    dsimp only at hv
    split at hv <;> cases hv
  · rw [hcheck] at h
    exact (congrArg Prod.fst h).symm

/-- An accepted candidate passed every check. -/
theorem pageCheck_ok_compared {t : State} {p : Page} (h : pageCheck s c = (t, .ok p)) :
    ∃ hdr segs payload, Compared s c hdr segs payload ∧
      crcBytes crcInit (crcCover hdr segs payload) = storedCrc hdr ∧
      t = s.setCrcPair ⟨storedCrc hdr, storedCrc hdr⟩ ∧ p = pageOf c hdr segs := by
  rcases pageCheck_compared_or_early s c with ⟨hdr, segs, payload, hcompared⟩ | ⟨v, hv, hcheck⟩
  · rw [hcompared.pageCheck, checkCrc] at h
    obtain ⟨hstate, hverdict⟩ := Prod.ext_iff.1 h
    dsimp only at hstate hverdict
    split at hverdict
    · next hcrc => exact ⟨hdr, segs, payload, hcompared, hcrc, by rw [← hstate, hcrc], (Verdict.ok.inj hverdict).symm⟩
    · cases hverdict
  · rw [hcheck] at h
    obtain ⟨-, rfl⟩ := Prod.ext_iff.1 h
    cases hv

end

/-- Settles O36: each check's own equation; where all pass, the CRC comparison decides. -/
theorem checksRunInOrder : Obligations.ChecksRunInOrder := by
  intro s c
  refine ⟨_, _, _, _, _, rfl, rfl, rfl, rfl, rfl, pageCheck_eoi, fun hc =>
    ⟨pageCheck_of_no_capture hc, fun hfour hcapture =>
      ⟨fun hshort => (pageCheck_of_capture hfour hcapture).trans (if_pos hshort), fun hfits =>
        ⟨pageCheck_of_version hfits hcapture rfl, fun hversion =>
          ⟨pageCheck_of_no_segments hfits hcapture rfl hversion, fun hsome =>
            ⟨pageCheck_of_short_body hfits hcapture rfl hversion hsome, fun hbody => ?_⟩⟩⟩⟩⟩⟩
  rw [(compared_of_body hcapture rfl hversion hsome (Nat.not_lt.2 hbody)).pageCheck]
  exact ⟨_, _, rfl, ofNat_leNat_slice_toNat _ 22 4, rfl, checkCrc_of_ne, fun heq =>
    ⟨_, checkCrc_of_eq heq, rfl, rfl, rfl, rfl, rfl, rfl, rfl, ofNat_leNat_slice_toNat _ 6 8,
      ofNat_leNat_slice_toNat _ 14 4, ofNat_leNat_slice_toNat _ 18 4⟩⟩

/-! A page back from its bytes (R150) -/

/-- What lies one after another in the source is read one after another. -/
theorem State.memRead_append {s : State} (hcalm : s.src.disturb = none) (site site' site'' : ReadSite) (a m n : Nat) :
    s.memRead site a m ++ s.memRead site' (a + m) n = s.memRead site'' a (m + n) := by
  simp only [State.memRead_calm hcalm, List.range_add, List.map_append, List.map_map, Function.comp_def, Nat.add_assoc]

/-- The fields of the page that this header, segment table and payload lay out. -/
def fieldsOfPage (hdr segs payload : List Byte) : PageFields where
  flags   := byteAt hdr 5
  gran    := BitVec.ofNat 64 (leNat (slice hdr 6 8))
  serial  := BitVec.ofNat 32 (leNat (slice hdr 14 4))
  seq     := BitVec.ofNat 32 (leNat (slice hdr 18 4))
  segs    := segs
  payload := payload

section
variable {hdr segs payload : List Byte}

theorem front_fieldsOfPage (hlen : hdr.length = 27) (hcapture : slice hdr 0 4 = capturePattern)
    (hversion : byteAt hdr 4 = 0) : (fieldsOfPage hdr segs payload).front = slice hdr 0 22 := by
  have htwo : slice hdr 4 1 ++ slice hdr 5 1 = [0, byteAt hdr 5] := by
    rw [slice_one (by omega), slice_one (by omega), hversion]
    rfl
  have hgran : leBytes 8 (fieldsOfPage hdr segs payload).gran.toNat = slice hdr 6 8 := leBytes_leNat_slice (by omega)
  have hserial : leBytes 4 (fieldsOfPage hdr segs payload).serial.toNat = slice hdr 14 4 := leBytes_leNat_slice (by omega)
  have hseq : leBytes 4 (fieldsOfPage hdr segs payload).seq.toNat = slice hdr 18 4 := leBytes_leNat_slice (by omega)
  rw [PageFields.front, hgran, hserial, hseq, ← hcapture, fieldsOfPage, ← htwo, slice_append_slice hdr 4 1 1,
    slice_append_slice hdr 0 4, slice_append_slice hdr 0 6, slice_append_slice hdr 0 14, slice_append_slice hdr 0 18]

/-- A header with the capture pattern, version 0 and the count of its segments is the one its fields lay out. -/
theorem headerWith_fieldsOfPage (hlen : hdr.length = 27) (hcapture : slice hdr 0 4 = capturePattern)
    (hversion : byteAt hdr 4 = 0) (hn : segs.length = (byteAt hdr 26).toNat) :
    (fieldsOfPage hdr segs payload).headerWith (storedCrc hdr) = hdr := by
  have hstored : leBytes 4 (storedCrc hdr).toNat = slice hdr 22 4 := leBytes_leNat_slice (by omega)
  have hcount : [BitVec.ofNat 8 (fieldsOfPage hdr segs payload).segs.length] = slice hdr 26 1 := by
    rw [slice_one (by omega), fieldsOfPage, hn, BitVec.ofNat_toNat, BitVec.setWidth_eq]
  have hall : slice hdr 0 27 = hdr := by rw [slice, List.drop_zero, List.take_of_length_le (by omega)]
  rw [PageFields.headerWith, front_fieldsOfPage hlen hcapture hversion, hstored, hcount, slice_append_slice hdr 0 22,
    slice_append_slice hdr 0 26, hall]

/-- On a constant source the bytes that reach the CRC comparison are the page of their fields, whatever its CRC field
holds (R150). -/
theorem Compared.holdsAt {s : State} {c : Nat} (h : Compared s c hdr segs payload) (hcalm : s.src.disturb = none) :
    (fieldsOfPage hdr segs payload).wellFormed = true ∧
    (fieldsOfPage hdr segs payload).headerWith (storedCrc hdr) = hdr ∧
    s.holdsAt c (hdr ++ segs ++ payload) := by
  have hlen : hdr.length = hdrLen := by rw [← h.header, State.memRead_length]
  have hn : segs.length = (byteAt hdr 26).toNat := by rw [← h.table, State.memRead_length]
  have hp : payload.length = segSum segs := by rw [← h.payload, State.memRead_length]
  have hcapture : slice hdr 0 4 = capturePattern := by
    rw [← h.capture, ← h.header, State.memRead_calm hcalm, State.memRead_calm hcalm, slice, ← List.map_drop,
      ← List.map_take]
    rfl
  have hread : s.memRead .header c (hdr ++ segs ++ payload).length = hdr ++ segs ++ payload := by
    rw [List.length_append, List.length_append, ← State.memRead_append hcalm .header (.payload c),
      ← State.memRead_append hcalm .header .segTable, hlen, hn, hp, h.header, h.table, ← Nat.add_assoc, h.payload]
  have hfits : c + (hdr ++ segs ++ payload).length ≤ s.srcLen := by
    rw [List.length_append, List.length_append, hlen, hn, hp]
    exact h.fits
  refine ⟨(PageFields.wellFormed_iff _).2 ⟨?_, hp⟩, headerWith_fieldsOfPage hlen hcapture h.version hn,
    (State.holdsAt_iff_memRead hcalm .header).2 ⟨hfits, hread⟩⟩
  exact Nat.le_trans (Nat.le_of_eq hn) (byteAt_toNat_le hdr 26)

/-- A page whose CRC field holds its CRC is its image (R150, R157). -/
theorem PageFields.image_eq (f : PageFields) : f.image = f.headerWith f.crc ++ f.segs ++ f.payload :=
  f.front_append_back f.crc

end

/-- Settles O38: the checks an accepted candidate passed make its bytes a page's. -/
theorem onlyPagesAreAccepted : Obligations.OnlyPagesAreAccepted := by
  intro s t c p hcalm hcheck
  obtain ⟨hdr, segs, payload, hcompared, hcrc, ht, rfl⟩ := pageCheck_ok_compared hcheck
  obtain ⟨hf, hheader, hholds⟩ := hcompared.holdsAt hcalm
  have hfcrc : (fieldsOfPage hdr segs payload).crc = storedCrc hdr := by
    rw [← hcrc, ← (fieldsOfPage hdr segs payload).crcBytes_crcCover_headerWith (storedCrc hdr), hheader]
    rfl
  have hn : segs.length = (byteAt hdr 26).toNat := by rw [← hcompared.table, State.memRead_length]
  refine ⟨fieldsOfPage hdr segs payload, hf, ?_, ?_, by rw [ht, hfcrc], fun hnil => hcompared.nseg ?_⟩
  · rw [PageFields.image_eq, hfcrc, hheader]
    exact hholds
  · have hversion := hcompared.version
    simp only [pageOf, PageFields.page, fieldsOfPage, hn, hversion]
  · rw [← hn, show segs = [] from hnil, List.length_nil]

end Sys2Proof.Machine
end

section
/-! SUPPORT. What the packet entries of a segment table are (R160, R162). -/

namespace Sys2Proof.Machine

/-! Complete packets, one after another -/

theorem packetFrags_append (start : Nat) (xs ys : List Nat) :
    packetFrags start (xs ++ ys) = packetFrags start xs ++ packetFrags (start + xs.sum) ys := by
  induction xs generalizing start with
  | nil => rfl
  | cons x xs ih => rw [List.cons_append, packetFrags, ih, packetFrags, List.sum_cons, Nat.add_assoc, List.cons_append]

@[simp] theorem packetFrags_map_length (start : Nat) (xs : List Nat) : (packetFrags start xs).map Frag.length = xs := by
  induction xs generalizing start with
  | nil => rfl
  | cons x xs ih => rw [packetFrags, List.map_cons, ih]

@[simp] theorem packetFrags_length (start : Nat) (xs : List Nat) : (packetFrags start xs).length = xs.length := by
  rw [← List.length_map Frag.length, packetFrags_map_length]

theorem packetFrags_map_complete (start : Nat) (xs : List Nat) :
    (packetFrags start xs).map Frag.complete = List.replicate xs.length true := by
  induction xs generalizing start with
  | nil => rfl
  | cons x xs ih => rw [packetFrags, List.map_cons, ih]; rfl

theorem packetFrags_map_contFragment (start : Nat) (xs : List Nat) :
    (packetFrags start xs).map Frag.contFragment = List.replicate xs.length false := by
  induction xs generalizing start with
  | nil => rfl
  | cons x xs ih => rw [packetFrags, List.map_cons, ih]; rfl

/-- Each packet's offset is the sum of the lengths before it. -/
theorem packetFrags_offset (start : Nat) : ∀ {xs : List Nat} {j : Nat}, j < xs.length →
    ((packetFrags start xs).map Frag.offset).getD j 0 = start + (xs.take j).sum
  | _ :: _, 0, _ => rfl
  | x :: xs, j + 1, h => by
    have ih := packetFrags_offset (start + x) (Nat.lt_of_succ_lt_succ h)
    rw [packetFrags, List.map_cons, List.getD_cons_succ, ih, List.take_succ_cons, List.sum_cons, Nat.add_assoc]

/-! The loop over the segments -/

theorem laceStep_of_lt (t : LaceState) {seg : Byte} (h : seg.toNat < 255) :
    laceStep t seg =
      ⟨t.pk ++ [⟨t.start, t.acc + seg.toNat, true, false⟩], t.off + seg.toNat, t.off + seg.toNat, 0⟩ := by
  simp only [laceStep, if_pos h]

theorem laceStep_255 (t : LaceState) : laceStep t 255 = ⟨t.pk, t.start, t.off + 255, t.acc + 255⟩ := rfl

/-- Segments of 255 add to the packet under construction. -/
theorem foldl_laceStep_replicate (k : Nat) (t : LaceState) :
    (List.replicate k 255).foldl laceStep t = ⟨t.pk, t.start, t.off + 255 * k, t.acc + 255 * k⟩ := by
  induction k generalizing t with
  | zero => rfl
  | succ k ih =>
    rw [List.replicate_succ, List.foldl_cons, laceStep_255, ih]
    simp only [Nat.mul_succ]
    congr 1 <;> omega

/-- The segments of one packet make its entry. -/
theorem foldl_laceStep_packetSegs (n start : Nat) (pk : List Frag) :
    (packetSegs n).foldl laceStep ⟨pk, start, start, 0⟩ =
      ⟨pk ++ packetFrags start [n], start + n, start + n, 0⟩ := by
  have hlast : (BitVec.ofNat 8 (n % 255)).toNat = n % 255 := by rw [BitVec.toNat_ofNat]; omega
  have hsum (a : Nat) : a + 255 * (n / 255) + n % 255 = a + n := by omega
  rw [packetSegs, List.foldl_append, foldl_laceStep_replicate, List.foldl_cons, List.foldl_nil,
    laceStep_of_lt _ (by rw [hlast]; omega)]
  simp only [hlast, hsum, Nat.zero_add, Nat.div_add_mod, packetFrags]

theorem foldl_laceStep_packets (lens : List Nat) (start : Nat) (pk : List Frag) :
    (lens.flatMap packetSegs).foldl laceStep ⟨pk, start, start, 0⟩ =
      ⟨pk ++ packetFrags start lens, start + lens.sum, start + lens.sum, 0⟩ := by
  induction lens generalizing start pk with
  | nil => simp [packetFrags]
  | cons n ns ih =>
    rw [List.flatMap_cons, List.foldl_append, foldl_laceStep_packetSegs, ih, List.append_assoc, List.sum_cons,
      Nat.add_assoc]
    rfl

/-- A packet's segments close it. -/
theorem lastCont_packets (lens : List Nat) : lastCont (lens.flatMap packetSegs) = false := by
  rcases List.eq_nil_or_concat lens with rfl | ⟨ns, n, rfl⟩
  · rfl
  · have hlast : BitVec.ofNat 8 (n % 255) ≠ 255 := fun h => by
      have := congrArg BitVec.toNat h
      rw [BitVec.toNat_ofNat, show (255 : Byte).toNat = 255 from rfl] at this
      omega
    rw [lastCont, List.concat_eq_append, List.flatMap_append, List.flatMap_singleton, packetSegs, ← List.append_assoc,
      List.getLast?_concat]
    simpa using hlast

/-- Settles O41: the loop makes one entry of each packet's segments, and none is left open. -/
theorem lacingRecoversPackets : Obligations.LacingRecoversPackets := by
  intro lens flags
  rw [lacing, lastCont_packets, foldl_laceStep_packets]
  simp

/-! Any segment table -/

/-- What the loop has made of these segments: complete packets one after another, and `acc` bytes of one still open. -/
structure Laced (segs : List Byte) (lens : List Nat) (t : LaceState) : Prop where
  pk     : t.pk = packetFrags 0 lens
  start  : t.start = lens.sum
  off    : t.off = segSum segs
  sum    : lens.sum + t.acc = segSum segs
  closed : lastCont segs = false → t.acc = 0
  nil    : lastCont segs = false → (lens = [] ↔ segs = [])

theorem segSum_concat (segs : List Byte) (b : Byte) : segSum (segs ++ [b]) = segSum segs + b.toNat := by
  simp [segSum]

theorem lastCont_concat (segs : List Byte) (b : Byte) : lastCont (segs ++ [b]) = (b == 255) := by
  simp [lastCont]

/-- A segment below 255 closes a packet. -/
theorem Laced.closing {segs : List Byte} {lens : List Nat} {t : LaceState} (h : Laced segs lens t) {b : Byte}
    (hb : b.toNat < 255) : Laced (segs ++ [b]) (lens ++ [t.acc + b.toNat]) (laceStep t b) := by
  have hsum : lens.sum + (t.acc + b.toNat) = segSum segs + b.toNat := by have := h.sum; omega
  rw [laceStep_of_lt t hb]
  constructor
  · simp only [packetFrags_append, h.pk, h.start, packetFrags, Nat.zero_add]
  · simp only [List.sum_append, List.sum_singleton, h.off, hsum]
  · simp only [h.off, segSum_concat]
  · simp only [List.sum_append, List.sum_singleton, segSum_concat, hsum, Nat.add_zero]
  · exact fun _ => rfl
  · exact fun _ => iff_of_false (List.concat_ne_nil _ _) (List.concat_ne_nil _ _)

/-- A segment of 255 closes none. -/
theorem Laced.continuing {segs : List Byte} {lens : List Nat} {t : LaceState} (h : Laced segs lens t) :
    Laced (segs ++ [255]) lens (laceStep t 255) := by
  have hcont : lastCont (segs ++ [255]) = true := lastCont_concat segs 255
  rw [laceStep_255]
  constructor
  · exact h.pk
  · exact h.start
  · rw [segSum_concat, h.off]
    rfl
  · rw [segSum_concat, ← h.sum, Nat.add_assoc]
    rfl
  · rw [hcont]
    exact nofun
  · rw [hcont]
    exact nofun

theorem exists_laced (segs : List Byte) : ∃ lens, Laced segs lens (segs.foldl laceStep ⟨[], 0, 0, 0⟩) := by
  induction segs using List.reverseRecOn with
  | nil => exact ⟨[], rfl, rfl, rfl, rfl, fun _ => rfl, fun _ => iff_of_true rfl rfl⟩
  | append_singleton segs b ih =>
    obtain ⟨lens, h⟩ := ih
    rw [List.foldl_concat]
    by_cases hb : b.toNat < 255
    · exact ⟨_, h.closing hb⟩
    · have hlt := b.isLt
      have h255 : b = 255 := BitVec.eq_of_toNat_eq (show b.toNat = 255 by omega)
      exact ⟨_, h255 ▸ h.continuing⟩

/-- Entries of these lengths one after another, all complete but the last if `last` leaves it open (R160). -/
structure LaidOut (last : Bool) (lens : List Nat) (pk : List Frag) : Prop where
  length       : pk.map Frag.length = lens
  offset       : pk.map Frag.offset = (packetFrags 0 lens).map Frag.offset
  complete     : ∀ j, j < lens.length → (pk.map Frag.complete).getD j false = !(last && j + 1 == lens.length)
  contFragment : pk.map Frag.contFragment = List.replicate lens.length false

theorem laidOut_packetFrags (lens : List Nat) : LaidOut false lens (packetFrags 0 lens) where
  length       := packetFrags_map_length 0 lens
  offset       := rfl
  complete     := fun j hj => by rw [packetFrags_map_complete, List.getD_replicate _ hj, Bool.false_and]; rfl
  contFragment := packetFrags_map_contFragment 0 lens

theorem laidOut_open (lens : List Nat) (n : Nat) :
    LaidOut true (lens ++ [n]) (packetFrags 0 lens ++ [⟨lens.sum, n, false, false⟩]) where
  length       := by rw [List.map_append, packetFrags_map_length]; rfl
  offset       := by rw [packetFrags_append, List.map_append, List.map_append, Nat.zero_add]; rfl
  complete     := fun j hj => by
    rw [List.length_append, List.length_singleton] at hj ⊢
    rw [List.map_append, packetFrags_map_complete]
    rcases Nat.lt_succ_iff_lt_or_eq.1 hj with hlt | rfl
    · have hne : (j + 1 == lens.length + 1) = false := beq_false_of_ne (by omega)
      rw [List.getD_append _ _ _ _ (by rwa [List.length_replicate]), List.getD_replicate _ hlt, hne]
      rfl
    · rw [List.getD_append_right _ _ _ _ (by rw [List.length_replicate]), List.length_replicate, Nat.sub_self,
        beq_self_eq_true]
      rfl
  contFragment := by
    rw [List.map_append, packetFrags_map_contFragment, List.length_append, List.replicate_add]; rfl

/-- A segment table gives entries that cover the payload, the last open exactly after a trailing 255 (R160). -/
theorem exists_laidOut (segs : List Byte) (flags : Byte) : ∃ lens pk,
    lacing segs flags = (markFirst flags pk, lastCont segs) ∧ LaidOut (lastCont segs) lens pk ∧
    lens.sum = segSum segs ∧ (lens = [] ↔ segs = []) := by
  obtain ⟨lens, h⟩ := exists_laced segs
  simp only [lacing, h.pk, h.start]
  cases hlast : lastCont segs with
  | false =>
    have hsum := h.sum
    rw [h.closed hlast] at hsum
    exact ⟨lens, _, rfl, laidOut_packetFrags lens, hsum, h.nil hlast⟩
  | true =>
    refine ⟨lens ++ [_], _, rfl, laidOut_open lens _, ?_, ?_⟩
    · rw [List.sum_append, List.sum_singleton, h.sum]
    · refine iff_of_false (List.concat_ne_nil _ _) fun hnil => ?_
      rw [hnil] at hlast
      cases hlast

/-! The mark on the first entry changes nothing else of it -/

section
variable (flags : Byte) (pk : List Frag)

theorem markFirst_map_length : (markFirst flags pk).map Frag.length = pk.map Frag.length := by cases pk <;> rfl

theorem markFirst_map_offset : (markFirst flags pk).map Frag.offset = pk.map Frag.offset := by cases pk <;> rfl

theorem markFirst_map_complete : (markFirst flags pk).map Frag.complete = pk.map Frag.complete := by cases pk <;> rfl

/-- Where no entry was marked, the first is now, if the flag says so. -/
theorem markFirst_map_contFragment {n : Nat} (h : pk.map Frag.contFragment = List.replicate n false) {j : Nat}
    (hj : j < n) : ((markFirst flags pk).map Frag.contFragment).getD j false = (j == 0 && flags.getLsbD 0) := by
  obtain ⟨n, rfl⟩ : ∃ m, n = m + 1 := ⟨n - 1, by omega⟩
  cases pk with
  | nil => cases h
  | cons e es =>
    cases j with
    | zero => rfl
    | succ j =>
      rw [List.map_cons, List.replicate_succ, List.cons.injEq] at h
      rw [markFirst, List.map_cons, List.getD_cons_succ, h.2, List.getD_replicate _ (Nat.lt_of_succ_lt_succ hj)]
      rfl

end

/-- Settles O42: the entries are laid out one after another, and the mark leaves their places alone. -/
theorem lacingShape : Obligations.LacingShape := by
  intro segs flags
  obtain ⟨lens, pk, hlacing, hlaid, hsum, hnil⟩ := exists_laidOut segs flags
  have hlen : pk.length = lens.length := by rw [← hlaid.length, List.length_map]
  have hfew : pk.length ≤ segs.length := by
    have := lacing_length_le segs flags
    rwa [hlacing, markFirst_length] at this
  refine ⟨markFirst flags pk, lastCont segs, hlacing, ?_⟩
  rw [markFirst_map_length, markFirst_map_offset, markFirst_map_complete, markFirst_length, hlaid.length, hlaid.offset,
    hlen]
  refine ⟨hlen ▸ hfew, ?_, hsum, fun j hj => ?_, beq_iff_eq, hlaid.complete,
    fun j hj => markFirst_map_contFragment flags pk hlaid.contFragment hj⟩
  · rw [← hnil, ← List.length_eq_zero_iff, ← List.length_eq_zero_iff, markFirst_length, hlen]
  · rw [packetFrags_offset 0 hj, Nat.zero_add]

end Sys2Proof.Machine
end

section
/-! SUPPORT. The lookup of a page's slot, and the three ways a page is tracked (R170 to R173). -/

namespace Sys2Proof.Machine

/-! The lookups -/

/-- In a consistent table the slot that tracks a serial is the one found (R56, R170). -/
theorem trackedSlot_of_valid {n : Nat} {slots : Vector Slot 32} (h : slotsConsistent n slots) {i : Fin 32}
    (hv : slots[i].valid = true) : trackedSlot n slots slots[i].serial = some i := by
  obtain ⟨habsent, -, hserial⟩ := h
  have hin : i.val < n := Nat.lt_of_not_le fun hle => by rw [habsent i hle] at hv; cases hv
  cases hfind : trackedSlot n slots slots[i].serial with
  | none => exact absurd rfl (trackedSlot_none hfind i hin hv)
  | some j =>
    obtain ⟨-, hjv, hjs⟩ := trackedSlot_some hfind
    rw [hserial j i hjv hv hjs]

theorem trackedSlot_of_untracked {n : Nat} {slots : Vector Slot 32} {serial : Word}
    (h : ∀ i : Fin 32, i.val < n → slots[i].valid = true → slots[i].serial ≠ serial) :
    trackedSlot n slots serial = none := by
  cases hfind : trackedSlot n slots serial with
  | none => rfl
  | some i =>
    obtain ⟨hin, hv, hs⟩ := trackedSlot_some hfind
    exact absurd hs (h i hin hv)

/-- The free slot found is the lowest-numbered one (R172). -/
theorem freeSlot_of_lowest {n : Nat} {slots : Vector Slot 32} {j : Fin 32} (hin : j.val < n)
    (hv : slots[j].valid = false) (hbelow : ∀ i : Fin 32, i < j → slots[i].valid = true) :
    freeSlot n slots = some j := by
  rw [freeSlot, List.find?_eq_some_iff_getElem]
  refine ⟨by simpa [hin] using hv, j.val, by simp, by simp, fun i hi => ?_⟩
  simpa using .inr (hbelow ⟨i, Nat.lt_trans hi j.isLt⟩ hi)

theorem freeSlot_of_full {n : Nat} {slots : Vector Slot 32} (h : ∀ j : Fin 32, j.val < n → slots[j].valid = true) :
    freeSlot n slots = none := by
  cases hfind : freeSlot n slots with
  | none => rfl
  | some j =>
    obtain ⟨hin, hv⟩ := freeSlot_some hfind
    rw [h j hin] at hv
    cases hv

/-! The three ways -/

theorem track_of_tracked {n : Nat} {slots : Vector Slot 32} {p : Page} {i : Fin 32}
    (h : trackedSlot n slots p.serial = some i) : track n slots p =
      (slots.set i (slots[i].follow p), ⟨slots[i].gapAt p, slots[i].regressAt p, false, false, true, i, true⟩) := by
  rw [track, h]

theorem track_of_free {n : Nat} {slots : Vector Slot 32} {p : Page} {j : Fin 32}
    (hnone : trackedSlot n slots p.serial = none) (h : freeSlot n slots = some j) : track n slots p =
      (slots.set j (Slot.start p), ⟨false, false, true, false, true, j, true⟩) := by
  rw [track, hnone, h]

theorem track_of_full {n : Nat} {slots : Vector Slot 32} {p : Page} (hnone : trackedSlot n slots p.serial = none)
    (h : freeSlot n slots = none) : track n slots p = (slots, ⟨false, false, false, true, true, 0, false⟩) := by
  rw [track, hnone, h]

theorem continuity_of_enabled {s : State} (h : s.ctrl.contEn = true) (p : Page) :
    continuity s p = track s.cfg.streamSlots s.slots p :=
  if_pos h

theorem continuity_of_disabled {s : State} (h : s.ctrl.contEn = false) (p : Page) :
    continuity s p = (s.slots, ⟨false, false, false, false, false, 0, false⟩) :=
  if_neg (Bool.eq_false_iff.1 h)

/-- With every slot valid and none of the page's serial, the page gets no slot (R173). -/
theorem continuity_of_full {s : State} {p : Page} (hen : s.ctrl.contEn = true)
    (h : ∀ j : Fin 32, j.val < s.cfg.streamSlots → s.slots[j].valid = true ∧ s.slots[j].serial ≠ p.serial) :
    continuity s p = (s.slots, ⟨false, false, false, true, true, 0, false⟩) := by
  rw [continuity_of_enabled hen]
  exact track_of_full (trackedSlot_of_untracked fun j hj _ => (h j hj).2) (freeSlot_of_full fun j hj => (h j hj).1)

/-! What tracking computes -/

theorem Slot.gapAt_iff (t : Slot) (p : Page) :
    t.gapAt p = true ↔ p.seq.toNat ≠ (t.lastSeq.toNat + 1) % 2 ^ 32 := by
  rw [Slot.gapAt, bne_iff_ne, Ne, ← BitVec.toNat_inj, BitVec.toNat_add]
  rfl

theorem Page.granKnown_eq (p : Page) : p.granKnown = decide (p.gran ≠ 0xFFFFFFFFFFFFFFFF#64) := by
  rw [Page.granKnown, bne, beq_eq_decide, ← decide_not]
  rfl

theorem Slot.regressAt_iff (t : Slot) (p : Page) :
    t.regressAt p = true ↔ p.gran ≠ 0xFFFFFFFFFFFFFFFF#64 ∧ t.hasGran = true ∧ p.gran.toInt < t.lastGran.toInt := by
  rw [Slot.regressAt, Bool.and_eq_true, Bool.and_eq_true, and_assoc, p.granKnown_eq, decide_eq_true_eq, BitVec.slt,
    decide_eq_true_eq]

/-- Settles O54: the lookup finds the slot, and the update follows the page there alone. -/
theorem continuityOfATrackedSerial : Obligations.ContinuityOfATrackedSerial := by
  intro s p i hslots hen hv hserial
  have htracked := trackedSlot_of_valid hslots hv
  rw [hserial] at htracked
  refine ⟨_, _, (continuity_of_enabled hen p).trans (track_of_tracked htracked), rfl, rfl, rfl, rfl, rfl,
    Slot.gapAt_iff _ p, Slot.regressAt_iff _ p, ?_⟩
  simp only [getElem_set_fin, Slot.follow, p.granKnown_eq, hserial, hv, if_true, decide_eq_true_eq, ne_eq, ite_not]
  exact ⟨trivial, trivial, trivial, trivial, trivial, rfl, fun j hj => if_neg hj⟩

/-- Settles O55: the lookup finds no slot of the serial, and the lowest free one is written alone. -/
theorem continuityOfANewSerial : Obligations.ContinuityOfANewSerial := by
  intro s p j hen huntracked hin hv hbelow
  refine ⟨_, (continuity_of_enabled hen p).trans
    (track_of_free (trackedSlot_of_untracked huntracked) (freeSlot_of_lowest hin hv hbelow)), ?_, fun i hi => ?_⟩
  · rw [getElem_set_fin, if_pos rfl, Slot.start, p.granKnown_eq]
    simp only [decide_eq_true_eq, ne_eq, ite_not]
    rfl
  · rw [getElem_set_fin, if_neg hi]

end Sys2Proof.Machine
end

section
/-! SUPPORT. Scanning, and PAGE_NEXT's loop without its bound (R166 to R168, R178). -/

namespace Sys2Proof.Machine

/-! Scanning (R167) -/

/-- `o` is a place where `Scan(c)` may stop (R167). -/
def ScanCandidate (s : State) (c o : Nat) : Prop :=
  c + 1 ≤ o ∧ o ≤ c + 65536 ∧ o + 4 ≤ s.srcLen ∧ s.memRead .scan o 4 = capturePattern

section
variable {s : State} {c : Nat}

theorem ScanCandidate.least_of_found {o : Nat} (h : scan s c = .found o) :
    ScanCandidate s c o ∧ ∀ x, x < o → ¬ ScanCandidate s c x := by
  obtain ⟨hpast, hwindow, hfits, hcapture, hfirst⟩ := scan_found h
  refine ⟨⟨hpast, hwindow, hfits, captureAt_iff.1 hcapture⟩, fun x hx ⟨hcx, _, _, hpattern⟩ => ?_⟩
  have hno := hfirst x hcx hx
  rw [captureAt_iff.2 hpattern] at hno
  cases hno

theorem not_scanCandidate_of_notFound (h : scan s c = .endOfInput ∨ scan s c = .windowEmpty) (o : Nat) :
    ¬ ScanCandidate s c o := by
  rintro ⟨hpast, hwindow, hfits, hpattern⟩
  have hno := scan_notFound h o hpast hwindow hfits
  rw [captureAt_iff.2 hpattern] at hno
  cases hno

/-- A scan stops at the least candidate, if there is one. -/
theorem scan_eq_found {o : Nat} (ho : ScanCandidate s c o) (hleast : ∀ x, x < o → ¬ ScanCandidate s c x) :
    scan s c = .found o := by
  cases h : scan s c with
  | found x =>
    obtain ⟨hx, hxleast⟩ := ScanCandidate.least_of_found h
    rcases Nat.lt_trichotomy x o with hlt | rfl | hgt
    · exact absurd hx (hleast x hlt)
    · rfl
    · exact absurd ho (hxleast o hgt)
  | endOfInput => exact absurd ho (not_scanCandidate_of_notFound (.inl h) o)
  | windowEmpty => exact absurd ho (not_scanCandidate_of_notFound (.inr h) o)

/-- Without a candidate the length tells the end of the source from an empty window. -/
theorem scan_of_no_candidate (h : ∀ o, ¬ ScanCandidate s c o) :
    scan s c = if s.srcLen < c + 1 + 65536 + 3 then .endOfInput else .windowEmpty := by
  cases hscan : scan s c with
  | found o => exact absurd (ScanCandidate.least_of_found hscan).1 (h o)
  | endOfInput => exact (if_pos (scan_endOfInput hscan)).symm
  | windowEmpty => exact (if_neg (Nat.not_lt.2 (scan_windowEmpty hscan))).symm

end

/-- Settles O46: a scan stops at the least candidate, and without one the length decides. -/
theorem scanFindsTheFirstCapture : Obligations.ScanFindsTheFirstCapture := by
  refine fun s c => ⟨ScanCandidate s c, fun o => Iff.rfl,
    fun o => ⟨ScanCandidate.least_of_found, fun ⟨ho, hleast⟩ => scan_eq_found ho hleast⟩,
    ⟨fun h => ⟨not_scanCandidate_of_notFound (.inl h), scan_endOfInput h⟩, fun ⟨hno, hend⟩ => ?_⟩,
    ⟨fun h => ⟨not_scanCandidate_of_notFound (.inr h), scan_windowEmpty h⟩, fun ⟨hno, hmore⟩ => ?_⟩⟩
  · rw [scan_of_no_candidate hno, if_pos hend]
  · rw [scan_of_no_candidate hno, if_neg (Nat.not_lt.2 hmore)]

/-! The loop, pass by pass (R166) -/

section
variable {s t : State} {c : Nat}

/-- A bound of one pass or more, where `c` is below `L`, and any bound where it is not (R178). -/
theorem nextFrom_eq_succ (s : State) (c : Nat) : nextFrom s c = nextLoop (s.srcLen - c + 1) s c :=
  nextLoop_fuel (Nat.le_refl _) (Nat.le_succ _)

theorem nextFrom_of_ok {p : Page} (h : pageCheck s c = (t, .ok p)) : nextFrom s c = finishPage p t := by
  rw [nextFrom_eq_succ, nextLoop, h]

theorem nextFrom_of_eoi (h : pageCheck s c = (t, .eoi)) : nextFrom s c = complete .eoi t := by
  rw [nextFrom_eq_succ, nextLoop, h]

theorem nextFrom_of_truncated (h : pageCheck s c = (t, .truncated)) :
    nextFrom s c = complete .truncated (seekTo c t) := by
  rw [nextFrom_eq_succ, nextLoop, h]

/-- What the loop does after the rejection of the candidate at `c`, by the scan's answer (R166). -/
def afterRejection (fuel : Nat) (u : State) (c : Nat) : ScanResult → State
  | .found o     => nextLoop fuel (addWaste (o - c) u) o
  | .endOfInput  => complete .eoi (seekTo u.srcLen (addWaste (u.srcLen - c) u))
  | .windowEmpty => giveUp c u

section
variable {r : Rejection} (h : pageCheck s c = (t, .rejected r))
include h

theorem nextFrom_of_rejected :
    nextFrom s c = afterRejection (s.srcLen - c) (rejectCandidate r t) c (scan (rejectCandidate r t) c) := by
  rw [nextFrom_eq_succ, nextLoop, h]
  rfl

/-- The next pass starts at the found candidate, which lies past the rejected one. -/
theorem nextFrom_of_found {o : Nat} (hs : scan (rejectCandidate r t) c = .found o) :
    nextFrom s c = nextFrom (addWaste (o - c) (rejectCandidate r t)) o := by
  obtain ⟨hpast, -, -, -⟩ := scan_found hs
  have hlen : (addWaste (o - c) (rejectCandidate r t)).srcLen = s.srcLen := by
    rw [srcLen_addWaste, srcLen_rejectCandidate, pageCheck_srcLen h]
  rw [nextFrom_of_rejected h, hs, afterRejection]
  exact nextLoop_fuel (by rw [hlen]; omega) (Nat.le_refl _)

theorem nextFrom_of_endOfInput (hs : scan (rejectCandidate r t) c = .endOfInput) :
    nextFrom s c = complete .eoi (seekTo s.srcLen (addWaste (s.srcLen - c) (rejectCandidate r t))) := by
  rw [nextFrom_of_rejected h, hs, afterRejection, srcLen_rejectCandidate, pageCheck_srcLen h]

theorem nextFrom_of_windowEmpty (hs : scan (rejectCandidate r t) c = .windowEmpty) :
    nextFrom s c = giveUp c (rejectCandidate r t) := by
  rw [nextFrom_of_rejected h, hs, afterRejection]

end

end

/-- What giving up after a window of `w` offsets changes before completion. -/
theorem complete_deaden (w c : Nat) (u : State) :
    complete .corrupt ((seekTo (c + 1 + w) (addWaste (w + 1) u)).setStatus
      (seekTo (c + 1 + w) (addWaste (w + 1) u)).status.deaden) =
    complete .corrupt
      { u with
        waste := u.waste + BitVec.ofNat 64 (8 * (w + 1))
        pos := BitVec.ofNat 64 (c + 1 + w)
        status := { u.status with dead := true } } :=
  rfl

/-- What CORRUPT changes before completion (R166, R169). -/
theorem giveUp_eq (c : Nat) (u : State) : giveUp c u = complete .corrupt
    { u with
      waste := u.waste + BitVec.ofNat 64 (8 * (65536 + 1))
      pos := BitVec.ofNat 64 (c + 1 + 65536)
      status := { u.status with dead := true } } := by
  have hwindow : resyncWindow = 65536 := rfl
  rw [giveUp, hwindow]
  exact complete_deaden 65536 c u

theorem exec_pageNext_of_alive {s : State} (h : s.status.dead = false) :
    exec .pageNext s = .next (nextFrom s.cleared s.pos.toNat) :=
  if_neg (Bool.eq_false_iff.1 h)

/-- Settles O45: one pass for each answer of PageCheck and, after a rejection, for each answer of Scan. -/
theorem pageNextLoopIsR166 : Obligations.PageNextLoopIsR166 := by
  refine ⟨fun s => exec_pageNext_of_alive, fun s c => ?_⟩
  obtain ⟨t, v, h⟩ : ∃ t v, pageCheck s c = (t, v) := ⟨_, _, rfl⟩
  refine ⟨t, v, h, ?_⟩
  cases v with
  | ok p =>
    rw [← (pageCheck_ok h).off]
    exact nextFrom_of_ok ((pageCheck_ok h).off ▸ h)
  | eoi =>
    cases pageCheck_state_of_early h rfl
    exact nextFrom_of_eoi h
  | truncated =>
    cases pageCheck_state_of_early h rfl
    exact nextFrom_of_truncated h
  | rejected r =>
    refine ⟨rejectCandidate r t, rfl, ?_⟩
    cases hs : scan (rejectCandidate r t) c with
    | found o => exact ⟨(scan_found hs).1, nextFrom_of_found h hs⟩
    | endOfInput => exact nextFrom_of_endOfInput h hs
    | windowEmpty => exact (nextFrom_of_windowEmpty h hs).trans (giveUp_eq c _)

end Sys2Proof.Machine
end

section
/-! SUPPORT. How each page command ends: with an accepted page, or with page registers and stream table as they were; where
POS, WASTE and DEAD then stand (R165, R166, R168, R169, R179). -/

namespace Sys2Proof.Machine

/-! PAGE_CHECK, by the answer of PageCheck (R165) -/

/-- What completion with a result that is no error changes (R222). -/
theorem complete_of_not_isError {code : ResultCode} (h : code.isError = false) (s : State) : complete code s =
    { s with
      src := s.src.settle
      pending := none
      status := { s.status with result := code, done := true } } := by
  simp only [complete, Status.completed, h, Bool.or_false]
  rfl

theorem exec_pageCheck_of_alive {s : State} (h : s.status.dead = false) :
    exec .pageCheck s = .next (checkAt s.cleared s.pos.toNat) :=
  if_neg (Bool.eq_false_iff.1 h)

theorem exec_page_of_dead {i : Instr} {s : State} (hi : i = .pageCheck ∨ i = .pageNext) (h : s.status.dead = true) :
    exec i s = .next (complete .eoi s) := by
  rcases hi with rfl | rfl <;> exact if_pos h

theorem Rejection.result_isError (r : Rejection) : r.result.isError = true := by cases r <;> rfl

section
variable {s t : State} {c : Nat}

theorem checkAt_of_ok {p : Page} (h : pageCheck s c = (t, .ok p)) : checkAt s c = finishPage p t := by
  rw [checkAt, h]

theorem checkAt_of_eoi (h : pageCheck s c = (t, .eoi)) : checkAt s c = complete .eoi s := by
  rw [checkAt, h, pageCheck_state_of_early h rfl]

theorem checkAt_of_truncated (h : pageCheck s c = (t, .truncated)) : checkAt s c = complete .truncated s := by
  rw [checkAt, h, pageCheck_state_of_early h rfl]

theorem checkAt_of_rejected {r : Rejection} (h : pageCheck s c = (t, .rejected r)) :
    checkAt s c = complete r.result (rejectCandidate r t) := by
  rw [checkAt, h]

end

/-- A rejected candidate changes the CRC pair at most, and only a rejection for the CRC changes it (R158). -/
theorem pageCheck_rejected_state {s t : State} {c : Nat} {r : Rejection} (h : pageCheck s c = (t, .rejected r)) :
    t = s.setCrcPair t.crcPair ∧ (r ≠ .crc → t = s) := by
  have ht : (pageCheck s c).1 = t := congrArg Prod.fst h
  refine ⟨?_, fun hr => pageCheck_state_of_early h (by cases r <;> trivial)⟩
  rcases pageCheck_state s c with hs | ⟨pair, hs⟩ <;> rw [← ht, hs] <;> rfl

/-- Settles O44: one answer of PageCheck each; only the CRC comparison writes the CRC pair. -/
theorem pageCheckWithoutAPage : Obligations.PageCheckWithoutAPage := by
  intro s hdead
  obtain ⟨t, v, hc⟩ : ∃ t v, pageCheck s.cleared s.pos.toNat = (t, v) := ⟨_, _, rfl⟩
  obtain ⟨hmem, hlen⟩ := theBlockNeverWritesTheSource.1 _ _ _ (exec_pageCheck_of_alive hdead)
  refine ⟨_, exec_pageCheck_of_alive hdead, hlen, hmem, fun r hr => ?_, fun hr => ?_, fun hr => ?_⟩ <;>
    rw [← RejInfo.reset, ← State.cleared, hc] at hr <;> cases hr
  · obtain ⟨ht, hearly⟩ := pageCheck_rejected_state hc
    rw [checkAt_of_rejected hc]
    refine ⟨?_, fun hne => by rw [hearly hne]; rfl⟩
    rw [complete_of_isError r.result_isError, ht]
    rfl
  · rw [checkAt_of_eoi hc, complete_of_not_isError rfl]
    rfl
  · rw [checkAt_of_truncated hc, complete_of_isError rfl]
    rfl

/-! With an accepted page, or with page registers and stream table as they were -/

/-- The end of a page command that accepted no page (R232). -/
def State.SamePage (s t : State) : Prop := t.status.result ≠ .ok ∧ t.pg = s.pg ∧ t.slots = s.slots

theorem SameButScan.samePage_complete {s v : State} (h : SameButScan s v) {code : ResultCode} (hcode : code ≠ .ok) :
    s.SamePage (complete code v) :=
  ⟨hcode, h.pg, h.slots⟩

theorem LoopEnd.accepted_or_samePage {u t : State} {d : Nat} (h : LoopEnd u d t) :
    (∃ v p, pageCheck u d = (v, .ok p) ∧ t = finishPage p v) ∨ u.SamePage t := by
  obtain ⟨-, -, -, -, -, -, -, -, -, -, -, hpage⟩ := h.frame
  cases h with
  | accepted hc => exact .inl ⟨_, _, hc, rfl⟩
  | ended | truncated | exhausted | corrupt =>
    rcases hpage with hok | ⟨-, hpg, hslots⟩
    · cases hok
    · exact .inr ⟨nofun, hpg, hslots⟩

/-- A page command accepts a page in a state that differs from the first in what the scan changes alone, or accepts none. -/
theorem Executed.accepted_or_samePage {i : Instr} {s t : State} (h : Executed s i t)
    (hi : i = .pageCheck ∨ i = .pageNext) :
    (∃ u d v p, SameButScan s u ∧ pageCheck u d = (v, .ok p) ∧ t = finishPage p v) ∨ s.SamePage t := by
  have hs := cleared_same s
  cases h with
  | checkDead | nextDead => exact .inr ((SameButScan.refl s).samePage_complete (by decide))
  | checkEoi => exact .inr (hs.samePage_complete (by decide))
  | checkOk _ hc => exact .inl ⟨_, _, _, _, hs, hc, rfl⟩
  | checkTruncated _ hc => exact .inr ((hs.trans (pageCheck_same hc).1).samePage_complete (by decide))
  | @checkRejected _ r _ hc =>
    exact .inr (((hs.trans (pageCheck_same hc).1).trans (reject_same r _)).samePage_complete r.result_ne_ok)
  | next _ hr he =>
    rcases he.accepted_or_samePage with ⟨v, p, hc, ht⟩ | ⟨hresult, hpg, hslots⟩
    · exact .inl ⟨_, _, v, p, hs.trans hr.same, hc, ht⟩
    · exact .inr ⟨hresult, hpg.trans hr.same.pg, hslots.trans hr.same.slots⟩
  | _ => simp at hi

theorem Executed.accepted {i : Instr} {s t : State} (h : Executed s i t) (hi : i = .pageCheck ∨ i = .pageNext)
    (hok : t.status.result = .ok) :
    ∃ u d v p, SameButScan s u ∧ pageCheck u d = (v, .ok p) ∧ t = finishPage p v :=
  (h.accepted_or_samePage hi).resolve_right fun hsame => hsame.1 hok

/-- The continuity checks look at nothing that the scan changes. -/
theorem SameButScan.continuity {s u : State} (h : SameButScan s u) (p : Page) : continuity u p = continuity s p := by
  rw [Machine.continuity, Machine.continuity, h.ctrl, h.cfg, h.slots]

/-- Settles O56: an accepted page is tracked in a state whose stream table and CTRL are those the command began with. -/
theorem continuityWithoutASlot : Obligations.ContinuityWithoutASlot := by
  refine ⟨fun s p => continuity_of_full, fun i s t p hi hdead hc => ?_, fun i s t hi hen hexec hok hfull => ?_,
    fun s p hdis => continuity_of_disabled hdis p, fun i s hi hdis => ?_⟩
  · rcases hi with rfl | rfl
    · exact ⟨_, (exec_pageCheck_of_alive hdead).trans (congrArg _ (checkAt_of_ok hc)), rfl, rfl⟩
    · exact ⟨_, (exec_pageNext_of_alive hdead).trans (congrArg _ (nextFrom_of_ok hc)), rfl, rfl⟩
  · obtain ⟨u, d, v, p, hsame, hc, rfl⟩ := (exec_next hexec).accepted hi hok
    have hk := ((hsame.trans (pageCheck_same hc).1).continuity p).trans (continuity_of_full hen hfull)
    simp [finishPage, pageRegs, pageInfo, hk]
  · obtain ⟨t, hexec, he⟩ := exec_executed i s
    refine ⟨t, hexec, ?_⟩
    rcases he.accepted_or_samePage hi with ⟨u, d, v, p, hsame, hc, rfl⟩ | ⟨hresult, -, hslots⟩
    · have hk := ((hsame.trans (pageCheck_same hc).1).continuity p).trans (continuity_of_disabled hdis p)
      simp [finishPage, pageRegs, pageInfo, hk]
    · exact ⟨hslots, fun hok => absurd hok hresult⟩

/-! Where POS and WASTE stand at the end (R168, R179) -/

theorem SameButScan.srcLen {s u : State} (h : SameButScan s u) : u.srcLen = s.srcLen := by
  rw [State.srcLen, State.srcLen, h.src]

theorem toNat_ofNat_of_le {n L : Nat} (h : n ≤ L) (hL : L < 2 ^ 64) : (BitVec.ofNat 64 n).toNat = n := by
  rw [BitVec.toNat_ofNat]
  exact Nat.mod_eq_of_lt (Nat.lt_of_le_of_lt h hL)

theorem lt_srcLen_of_not_eoi {s : State} {c : Nat} {v : Verdict} (h : (pageCheck s c).2 = v) (hv : v ≠ .eoi) :
    c < s.srcLen :=
  Nat.lt_of_not_le fun hle => hv (h ▸ (pageCheck_eoi_iff s c).2 hle)

/-- The loop comes to the end of the source only where it began: a found candidate lies before it (R178). -/
theorem Resynced.eq_of_ended {s u : State} {c d : Nat} (h : Resynced s c u d) (hend : u.srcLen ≤ d) :
    u = s ∧ d = c := by
  rcases h.lost with hhere | ⟨-, -, -, hfits⟩
  · exact hhere
  · omega

/-- After an accepted page POS is the page's offset plus its length, neither of them cut off (R7, R163). -/
theorem Accepted.finishPage {s t : State} {c : Nat} {p : Page} (h : Accepted s c t p) (hL : s.srcLen < 2 ^ 64) :
    (finishPage p t).pg.off.toNat = c ∧ (finishPage p t).pg.len.toNat = p.len ∧
    (finishPage p t).pos.toNat = c + p.len := by
  have hlen : p.len < 2 ^ 32 := Nat.lt_of_le_of_lt h.len_le (by decide)
  have hoff : c ≤ s.srcLen := Nat.le_trans (Nat.le_add_right _ _) h.fits
  refine ⟨?_, Nat.mod_eq_of_lt hlen, ?_⟩
  · exact (congrArg (fun n => (BitVec.ofNat 64 n).toNat) h.off).trans (toNat_ofNat_of_le hoff hL)
  · exact (congrArg (fun n => (BitVec.ofNat 64 (n + p.len)).toNat) h.off).trans (toNat_ofNat_of_le h.fits hL)

/-- Where a page command stopped: at the accepted page, or at the new POS (R168). -/
def State.stopped (t : State) : Nat := if t.status.result = .ok then t.pg.off.toNat else t.pos.toNat

theorem stopped_finishPage (p : Page) (t : State) : (finishPage p t).stopped = (finishPage p t).pg.off.toNat :=
  if_pos rfl

theorem stopped_complete {code : ResultCode} (h : code ≠ .ok) (t : State) : (complete code t).stopped = t.pos.toNat :=
  if_neg h

/-- From candidate `d` on, the bytes up to where the command stops are counted as waste. -/
theorem LoopEnd.waste {u t : State} {d : Nat} (h : LoopEnd u d t) (hL : u.srcLen < 2 ^ 64)
    (hpos : u.srcLen ≤ d → u.pos.toNat = d) :
    d ≤ t.stopped ∧ t.waste = u.waste + BitVec.ofNat 64 (8 * (t.stopped - d)) := by
  cases h with
  | accepted hc =>
    obtain ⟨hoff, -, -⟩ := (pageCheck_ok hc).finishPage hL
    rw [stopped_finishPage, hoff]
    simp [finishPage, (pageCheck_same hc).2.1]
  | ended hend =>
    rw [stopped_complete (code := .eoi) nofun, hpos hend]
    simp
  | truncated hc =>
    have hd := lt_srcLen_of_not_eoi (congrArg Prod.snd hc) nofun
    rw [stopped_complete (code := .truncated) nofun, seekTo_pos, toNat_ofNat_of_le hd.le hL]
    simp [(pageCheck_same hc).2.1]
  | @exhausted t r hc hs =>
    have hd := lt_srcLen_of_not_eoi (congrArg Prod.snd hc) nofun
    rw [stopped_complete (code := .eoi) nofun, seekTo_pos, srcLen_rejectCandidate, pageCheck_srcLen hc,
      toNat_ofNat_of_le le_rfl hL]
    exact ⟨hd.le, by simp [(pageCheck_same hc).2.1]⟩
  | @corrupt t r hc hs =>
    have hend := scan_windowEmpty hs
    rw [srcLen_rejectCandidate, pageCheck_srcLen hc, resyncWindow] at hend
    rw [giveUp_eq, stopped_complete (code := .corrupt) nofun, toNat_ofNat_of_le (by omega) hL]
    refine ⟨by omega, ?_⟩
    rw [show d + 1 + 65536 - d = 65536 + 1 by omega, complete_waste, rejectCandidate_waste, (pageCheck_same hc).2.1]

theorem Executed.next_of_alive {s t : State} (h : Executed s .pageNext t) (hdead : s.status.dead = false) :
    ∃ u d, Resynced s.cleared s.pos.toNat u d ∧ LoopEnd u d t := by
  cases h with
  | nextDead h => rw [hdead] at h; cases h
  | next _ hr he => exact ⟨_, _, hr, he⟩

/-- Over a whole PAGE_NEXT WASTE grows by the bytes from POS to where the command stops. -/
theorem Executed.waste_of_pageNext {s t : State} (h : Executed s .pageNext t) (hL : s.srcLen < 2 ^ 64) :
    t.waste = s.waste + BitVec.ofNat 64 (8 * (t.stopped - s.pos.toNat)) := by
  cases h with
  | nextDead =>
    rw [stopped_complete (code := .eoi) nofun, Nat.sub_self]
    exact (BitVec.add_zero _).symm
  | @next u t d _ hr he =>
    have hlen : u.srcLen = s.srcLen := hr.same.srcLen
    obtain ⟨hstop, hwaste⟩ := he.waste (hlen ▸ hL) fun hend => by
      obtain ⟨rfl, rfl⟩ := hr.eq_of_ended hend
      rfl
    have hstart := hr.le
    calc t.waste
      _ = s.waste + BitVec.ofNat 64 (8 * (d - s.pos.toNat)) + BitVec.ofNat 64 (8 * (t.stopped - d)) := by
        rw [hwaste, hr.waste]; rfl
      _ = s.waste + BitVec.ofNat 64 (8 * (t.stopped - s.pos.toNat)) := by
        rw [BitVec.add_assoc, ← BitVec.ofNat_add, ← Nat.mul_add, Nat.add_comm (d - _),
          Nat.sub_add_sub_cancel hstop hstart]

/-- Settles O48: the loop counts the bytes it passes over, and no other command but a clear or a reset writes WASTE. -/
theorem wasteCountsBytesPassedOver : Obligations.WasteCountsBytesPassedOver := by
  refine ⟨fun s t hexec => ⟨_, rfl, (exec_next hexec).waste_of_pageNext⟩, fun i s t hnext hclear hreset hexec => ?_⟩
  have he := exec_next hexec
  by_cases hcheck : i = .pageCheck
  · subst hcheck
    exact he.waste_dead_of_pageCheck.1
  · cases he with
    | nop | crcClear | crcByte | crcRun | crcRunShort | streamsClear => rfl
    | wasteClear => exact absurd rfl hclear
    | softReset => exact absurd rfl hreset
    | nextDead | next => exact absurd rfl hnext
    | _ => exact absurd rfl hcheck

/-! Each end of the loop, by its result (R166, R179) -/

section
variable {u t : State} {d : Nat} (h : LoopEnd u d t)
include h

theorem LoopEnd.of_eoi (hr : t.status.result = .eoi) :
    (u.srcLen ≤ d ∧ t.pos = u.pos) ∨ (d < u.srcLen ∧ t.pos = BitVec.ofNat 64 u.srcLen) := by
  cases h with
  | ended hend => exact .inl ⟨hend, rfl⟩
  | exhausted hc =>
    refine .inr ⟨lt_srcLen_of_not_eoi (congrArg Prod.snd hc) nofun, ?_⟩
    rw [complete_pos, seekTo_pos, srcLen_rejectCandidate, pageCheck_srcLen hc]
  | accepted | truncated | corrupt => cases hr

theorem LoopEnd.of_truncated (hr : t.status.result = .truncated) :
    (pageCheck u d).2 = .truncated ∧ t.pos = BitVec.ofNat 64 d := by
  cases h with
  | truncated hc => exact ⟨congrArg Prod.snd hc, rfl⟩
  | accepted | ended | exhausted | corrupt => cases hr

theorem LoopEnd.of_corrupt (hr : t.status.result = .corrupt) :
    ∃ r, (pageCheck u d).2 = .rejected r ∧ scan u d = .windowEmpty ∧ t.pos = BitVec.ofNat 64 (d + 1 + 65536) := by
  cases h with
  | corrupt hc hs =>
    refine ⟨_, congrArg Prod.snd hc, ?_, by rw [giveUp_eq]; rfl⟩
    rwa [scan_src (s := u) (by rw [rejectCandidate_src, (pageCheck_same hc).1.src])] at hs
  | accepted | ended | truncated | exhausted => cases hr

/-- CORRUPT alone sets `DEAD` (R169). -/
theorem LoopEnd.dead_iff (hdead : u.status.dead = false) : t.status.result = .corrupt ↔ t.status.dead = true := by
  cases h with
  | corrupt => exact iff_of_true rfl rfl
  | ended => exact iff_of_false nofun (Bool.eq_false_iff.1 hdead)
  | accepted hc | truncated hc | exhausted hc =>
    exact iff_of_false nofun (Bool.eq_false_iff.1 ((pageCheck_same hc).1.dead.trans hdead))

end

/-- On OK POS stands behind the page (R179). -/
theorem Executed.pos_of_ok {i : Instr} {s t : State} (h : Executed s i t) (hi : i = .pageCheck ∨ i = .pageNext)
    (hL : s.srcLen < 2 ^ 64) (hok : t.status.result = .ok) : t.pos.toNat = t.pg.off.toNat + t.pg.len.toNat := by
  obtain ⟨u, d, v, p, hsame, hc, rfl⟩ := h.accepted hi hok
  obtain ⟨hoff, hlen, hpos⟩ := (pageCheck_ok hc).finishPage (hsame.srcLen ▸ hL)
  rw [hoff, hlen, hpos]

/-- PAGE_CHECK leaves POS alone unless it accepts a page (R165). -/
theorem Executed.pos_of_pageCheck {s t : State} (h : Executed s .pageCheck t) (hno : t.status.result ≠ .ok) :
    t.pos = s.pos := by
  cases h with
  | checkDead | checkEoi => rfl
  | checkOk => exact absurd rfl hno
  | checkTruncated _ hc | checkRejected _ hc => exact (pageCheck_same hc).1.pos

/-- Settles O49: each result of PAGE_NEXT is one end of the loop, at the candidate it came to. -/
theorem posAfterPageCommands : Obligations.PosAfterPageCommands := by
  refine ⟨fun i s t hi hdead hexec => ?_, fun s t hdead hL => ⟨fun hexec => ?_, fun hexec => ?_⟩⟩
  · rw [exec_page_of_dead hi hdead] at hexec
    cases hexec
    exact ⟨rfl, rfl⟩
  · exact ⟨(exec_next hexec).pos_of_ok (.inl rfl) hL, (exec_next hexec).pos_of_pageCheck⟩
  · obtain ⟨u, d, hr, he⟩ := (exec_next hexec).next_of_alive hdead
    have hsame := (cleared_same s).trans hr.same
    have hlen : u.srcLen = s.srcLen := hsame.srcLen
    refine ⟨(exec_next hexec).pos_of_ok (.inr rfl) hL, fun hresult hend => ?_, fun hresult hmore => ?_,
      fun hresult => ?_, fun hresult => ?_⟩
    · rcases he.of_eoi hresult with ⟨-, hpos⟩ | ⟨hd, -⟩
      · exact hpos.trans hsame.pos
      · have := hr.le
        omega
    · rcases he.of_eoi hresult with ⟨hd, -⟩ | ⟨-, hpos⟩
      · have := (hr.eq_of_ended hd).2
        omega
      · rw [hpos, hlen, toNat_ofNat_of_le le_rfl hL]
    · obtain ⟨hc, hpos⟩ := he.of_truncated hresult
      have hd := lt_srcLen_of_not_eoi hc nofun
      exact ⟨u, d, by rw [hpos, toNat_ofNat_of_le (hlen ▸ hd.le) hL], hsame.src, hsame.ctrl, hc⟩
    · obtain ⟨r, hc, hs, hpos⟩ := he.of_corrupt hresult
      have hend : d + 1 + 65536 + 3 ≤ u.srcLen := scan_windowEmpty hs
      exact ⟨u, d, r, by rw [hpos, toNat_ofNat_of_le (by omega) hL], hsame.src, hsame.ctrl, hc, hs⟩

/-- On a constant source the capture pattern, held in the window, is a candidate of the scan. -/
theorem State.holdsAt.scanCandidate {s : State} {c o : Nat} (h : s.holdsAt o capturePattern) (hpast : c + 1 ≤ o)
    (hwindow : o ≤ c + 65536) : ScanCandidate s c o :=
  ⟨hpast, hwindow, (State.holdsAt_iff_memRead h.1 .scan).1 h⟩

/-- Settles O50: CORRUPT is the one end that sets `DEAD`, after a scan of the whole window without a candidate. -/
theorem corruptStreamLatches : Obligations.CorruptStreamLatches := by
  refine ⟨fun s t hdead hexec => ?_, fun i s hi hdead => ?_, fun s v hidle => ?_⟩
  · obtain ⟨u, d, hr, he⟩ := (exec_next hexec).next_of_alive hdead
    have hsame := (cleared_same s).trans hr.same
    refine ⟨he.dead_iff (hsame.dead.trans hdead), fun hresult hcalm => ?_⟩
    obtain ⟨r, -, hs, hpos⟩ := he.of_corrupt hresult
    rw [scan_src hsame.src] at hs
    have hend : d + 1 + 65536 + 3 ≤ s.srcLen := scan_windowEmpty hs
    have hL : s.srcLen < 2 ^ 64 := State.srcLen_calm hcalm ▸ s.src.len.isLt
    exact ⟨d, hr.le, by rw [hpos, toNat_ofNat_of_le (by omega) hL], fun o hpast hwindow hholds =>
      not_scanCandidate_of_notFound (.inr hs) o (hholds.scanCandidate hpast hwindow)⟩
  · exact ⟨_, exec_page_of_dead hi hdead, rfl, rfl, complete_of_not_isError rfl s⟩
  · simp only [writeTarget, idleOnly_of_idle hidle]
    exact ⟨rfl, rfl⟩

end Sys2Proof.Machine
end

section
/-! SUPPORT. What a page command that accepts a page reports of it, at POS or past garbage (R163, R165, R166, R175). -/

namespace Sys2Proof.Machine

/-- The page of these fields at `c` is reported in `t`, its stream tracked from the stream table of `s` (R163). -/
structure Reported (s : State) (f : PageFields) (c : Nat) (t : State) : Prop where
  pos        : t.pos.toNat = c + f.image.length
  off        : t.pg.off.toNat = c
  len        : t.pg.len.toNat = 27 + f.segs.length + f.payload.length
  version    : t.pg.version = 0
  flags      : t.pg.flags = f.flags
  nseg       : t.pg.nseg.toNat = f.segs.length
  gran       : t.pg.gran = f.gran
  serial     : t.pg.serial = f.serial
  seq        : t.pg.seq = f.seq
  payloadLen : t.pg.payloadLen.toNat = f.payload.length
  seg        : ∀ i, t.pg.segByte i = f.segs.getD i 0
  pkt        : ∀ j, t.pg.pktEntry j = ((lacing f.segs f.flags).1.map Frag.entry).getD j PktEntry.zero
  pktCount   : t.pg.info.pktCount.toNat = (lacing f.segs f.flags).1.length
  lastCont   : t.pg.info.lastCont = (lacing f.segs f.flags).2
  tracked    : ∃ k, continuity s (f.page c) = (t.slots, k) ∧ t.pg.info.seqGap = k.gap ∧
    t.pg.info.granRegress = k.regress ∧ t.pg.info.newStream = k.new ∧ t.pg.info.streamFull = k.full ∧
    t.pg.info.contChecked = k.checked ∧ t.pg.info.slot.toNat = k.slot ∧ t.pg.info.slotValid = k.slotValid

/-- Acceptance reports the page in every register and table, whose widths cut nothing off (R7, R160, R163). -/
theorem Accepted.reported {s u v : State} {c : Nat} {f : PageFields} (h : Accepted u c v (f.page c))
    (hf : f.wellFormed = true) (hsame : SameButScan s v) (hL : u.srcLen < 2 ^ 64) :
    Reported s f c (Machine.finishPage (f.page c) v) := by
  obtain ⟨hfew, hsum⟩ := f.wellFormed_iff.1 hf
  obtain ⟨hoff, hlen, hpos⟩ := h.finishPage hL
  have hpageLen : (f.page c).len = 27 + f.segs.length + f.payload.length := by rw [hsum]; rfl
  have hcount : (lacing f.segs f.flags).1.length ≤ f.segs.length := lacing_length_le _ _
  have hshort := h.len_le
  constructor
  case pos => rw [hpos, f.image_length, hpageLen]
  case off => exact hoff
  case len => rw [hlen, hpageLen]
  case version | flags | gran | serial | seq | lastCont => rfl
  case nseg => exact Nat.mod_eq_of_lt (show f.segs.length < 2 ^ 8 by omega)
  case payloadLen => rw [hsum]; exact Nat.mod_eq_of_lt (show segSum f.segs < 2 ^ 32 by omega)
  case seg => exact PageRegs.segByte_segTable hfew rfl
  case pkt => exact PageRegs.pktEntry_pktTable (hcount.trans hfew) rfl
  case pktCount => exact Nat.mod_eq_of_lt (show (lacing f.segs f.flags).1.length < 2 ^ 9 by omega)
  case tracked =>
    exact ⟨(continuity v (f.page c)).2, (hsame.continuity _).symm, rfl, rfl, rfl, rfl, rfl,
      Nat.mod_eq_of_lt (continuity_slot_lt v _), rfl⟩

/-! What else acceptance and completion change -/

section
variable (p : Page) (v : State)

theorem finishPage_status :
    (finishPage p v).status = { v.status with result := .ok, done := true, lostSync := false } := by
  rw [finishPage, complete_ok]
  rfl

theorem finishPage_resync : (finishPage p v).pg.info.resync = v.status.lostSync := by
  rw [finishPage, complete_pg, seekTo_pg, acceptPage_pg]
  rfl

theorem finishPage_crcPair : (finishPage p v).crcPair = v.crcPair := by
  rw [finishPage, complete_crcPair, seekTo_crcPair, acceptPage_crcPair]

theorem finishPage_rej : (finishPage p v).rej = v.rej := by
  rw [finishPage, complete_rej, seekTo_rej, acceptPage_rej]

theorem finishPage_waste : (finishPage p v).waste = v.waste := by
  rw [finishPage, complete_waste, seekTo_waste, acceptPage_waste]

/-- All but the block's results stays as it was, over a source that nothing has changed while busy (R82, R232). -/
theorem finishPage_frame {s : State} (hsame : SameButScan s v) (hcalm : s.src.disturb = none) :
    { finishPage p v with pending := s.pending, pos := s.pos, pg := s.pg, crcPair := s.crcPair, rej := s.rej,
                          waste := s.waste, status := s.status, slots := s.slots } = s := by
  apply State.ext <;>
    simp [finishPage, hsame.cfg, hsame.src, hsame.host, hsame.ctrl, hsame.crc, hsame.argAddr, hsame.argLen,
      Source.settle_calm hcalm]

end

theorem setCrcPair_same (s : State) (pair : CrcPair) : SameButScan s (s.setCrcPair pair) := by constructor <;> rfl

/-- On a page that the source holds, PageCheck answers OK, and the page is reported (R151, R163). -/
theorem reported_of_holdsAt {s w : State} {c : Nat} {f : PageFields} (hf : f.wellFormed = true)
    (h : s.holdsAt c f.image) (hnseg : f.segs = [] → s.ctrl.nseg0Accept = true) (hsame : SameButScan s w) :
    pageCheck w c = (w.setCrcPair ⟨f.crc, f.crc⟩, .ok (f.page c)) ∧
    Reported s f c (finishPage (f.page c) (w.setCrcPair ⟨f.crc, f.crc⟩)) := by
  have hw : w.holdsAt c f.image := by rwa [State.holdsAt, hsame.src]
  have hc := everyPageIsAccepted w c f hf hw (by rwa [hsame.ctrl])
  have hL : w.srcLen < 2 ^ 64 := State.srcLen_calm hw.1 ▸ w.src.len.isLt
  exact ⟨hc, (pageCheck_ok hc).reported hf (hsame.trans (pageCheck_same hc).1) hL⟩

/-- Settles O43: PageCheck answers OK, and acceptance reports the page. -/
theorem pageCheckReportsThePage : Obligations.PageCheckReportsThePage := by
  intro s f hdead hf h hnseg
  obtain ⟨hc, hreport⟩ := reported_of_holdsAt hf h hnseg (cleared_same s)
  refine ⟨_, _, _, rfl, (exec_pageCheck_of_alive hdead).trans (congrArg _ (checkAt_of_ok hc)), hreport.pos,
    BitVec.eq_of_toNat_eq hreport.off, hreport.len, hreport.version, hreport.flags, hreport.nseg, hreport.gran,
    hreport.serial, hreport.seq, hreport.payloadLen, hreport.seg, hreport.pkt, hreport.pktCount, hreport.lastCont,
    ?_, hreport.tracked, ?_, ?_, ?_, ?_⟩
  · rw [finishPage_resync, State.setCrcPair_status]
    rfl
  · rw [finishPage_crcPair, State.setCrcPair_crcPair]
  · rw [finishPage_rej, State.setCrcPair_rej]
    rfl
  · rw [finishPage_status, State.setCrcPair_status]
    rfl
  · rw [finishPage_waste, State.setCrcPair_waste]
    exact finishPage_frame _ _ ((cleared_same s).trans (setCrcPair_same _ _)) h.1

/-- Garbage without a capture pattern is passed over by one rejection and one scan (R166, R167). -/
theorem nextFrom_of_garbage {s : State} {c g : Nat} {f : PageFields} (h : s.holdsAt (c + g) f.image) (hg : 0 < g)
    (hwindow : g ≤ 65536) (hgarbage : ∀ x, x < g → ¬ s.holdsAt (c + x) capturePattern) :
    nextFrom s c = nextFrom (addWaste g (rejectCandidate .capture s)) (c + g) := by
  have hfits : c + g + 27 ≤ s.srcLen := by
    have := h.2.1
    rw [f.image_length] at this
    rw [State.srcLen_calm h.1]
    omega
  have hfour : c + 4 ≤ s.srcLen := by omega
  have hcapture : s.memRead .scan (c + g) 4 = capturePattern :=
    h.memRead .scan (j := 0) (n := 4) (by rw [f.image_length]; omega)
  have hno : s.srcLen < c + 4 ∨ s.memRead .capture c 4 ≠ capturePattern :=
    .inr fun hpattern => hgarbage 0 hg ((State.holdsAt_iff_memRead h.1 .capture).2 ⟨hfour, hpattern⟩)
  have hleast (x : Nat) (hx : x < c + g) : ¬ ScanCandidate s c x := by
    rintro ⟨hpast, -, hfour, hpattern⟩
    refine hgarbage (x - c) (by omega) ?_
    rw [Nat.add_sub_cancel' (by omega)]
    exact (State.holdsAt_iff_memRead h.1 .scan).2 ⟨hfour, hpattern⟩
  have hscan : scan (rejectCandidate .capture s) c = .found (c + g) :=
    (scan_src (s := s) (t := rejectCandidate .capture s) rfl c).trans
      (scan_eq_found (s := s) ⟨by omega, by omega, by omega, hcapture⟩ hleast)
  rw [nextFrom_of_found (pageCheck_of_no_capture (by omega) hno) hscan, Nat.add_sub_cancel_left]

/-- PAGE_NEXT before a page `g` bytes on comes to it in a state that has counted the bytes between. -/
theorem exec_pageNext_of_garbage {s : State} {f : PageFields} {g : Nat} (hdead : s.status.dead = false)
    (h : s.holdsAt (s.pos.toNat + g) f.image) (hwindow : g ≤ 65536)
    (hgarbage : ∀ x, x < g → ¬ s.holdsAt (s.pos.toNat + x) capturePattern) :
    ∃ w, exec .pageNext s = .next (nextFrom w (s.pos.toNat + g)) ∧ SameButScan s w ∧
      w.waste = s.waste + BitVec.ofNat 64 (8 * g) ∧ w.rej = (if g = 0 then ⟨0, none⟩ else ⟨1, some .capture⟩) ∧
      w.status = s.status.withLostSync (s.status.lostSync || decide (0 < g)) := by
  have hsame := cleared_same s
  rcases Nat.eq_zero_or_pos g with rfl | hg
  · refine ⟨_, exec_pageNext_of_alive hdead, hsame, (BitVec.add_zero _).symm, rfl, ?_⟩
    rw [decide_eq_false (Nat.lt_irrefl 0), Bool.or_false]
    rfl
  · refine ⟨addWaste g (rejectCandidate .capture s.cleared), (exec_pageNext_of_alive hdead).trans (congrArg _ ?_),
      hsame.trans ((reject_same _ _).trans (addWaste_same _ _)), rfl, ?_, ?_⟩
    · exact nextFrom_of_garbage (s := s.cleared) h hg hwindow hgarbage
    · rw [if_neg hg.ne']
      rfl
    · rw [decide_eq_true hg, Bool.or_true]
      rfl

/-- Settles O47: the loop comes to the page past the garbage, where PageCheck answers OK and acceptance reports it. -/
theorem pageNextRecoversAfterGarbage : Obligations.PageNextRecoversAfterGarbage := by
  intro s f g hdead hf h hnseg hwindow hgarbage
  obtain ⟨w, hexec, hsame, hwaste, hrej, hstatus⟩ := exec_pageNext_of_garbage hdead h hwindow hgarbage
  obtain ⟨hc, hreport⟩ := reported_of_holdsAt hf h hnseg hsame
  refine ⟨_, _, _, rfl, hexec.trans (congrArg _ (nextFrom_of_ok hc)), hreport.pos, hreport.off, hreport.len,
    hreport.version, hreport.flags, hreport.nseg, hreport.gran, hreport.serial, hreport.seq, hreport.payloadLen,
    hreport.seg, hreport.pkt, hreport.pktCount, hreport.lastCont, ?_, hreport.tracked, finishPage_crcPair _ _, ?_, ?_, ?_,
    ?_⟩
  · rw [finishPage_resync, State.setCrcPair_status, hstatus, Status.withLostSync_lostSync]
  · rw [finishPage_rej, State.setCrcPair_rej, hrej]
  · rw [finishPage_waste, State.setCrcPair_waste, hwaste]
  · rw [finishPage_status, State.setCrcPair_status, hstatus]
    rfl
  · exact finishPage_frame _ _ (hsame.trans (setCrcPair_same _ _)) h.1

end Sys2Proof.Machine
end

section
/-! SUPPORT. The commands of the control family and the execution of an illegal word (R200 to R204). -/

namespace Sys2Proof.Machine

/-- Settles O26: completion alone changes the state. -/
theorem nopRule : Obligations.NopRule :=
  ⟨(decodeInvertsEncode _ _).2 rfl, fun s => ⟨_, rfl, rfl, rfl, complete_ok s⟩⟩

/-- Settles O27: completion adds nothing to the cleared counter. -/
theorem wasteClearRule : Obligations.WasteClearRule :=
  ⟨(decodeInvertsEncode _ _).2 rfl, fun s => ⟨_, rfl, rfl, rfl, complete_ok (s.setWaste 0)⟩⟩

/-! STREAMS_CLEAR (R202) -/

theorem peek_stream_of_cleared {s : State} (h : s.slots = Vector.replicate 32 Slot.zero) (i k : Nat) :
    peek s (.stream i k) = 0 := by
  rw [peek, State.slotAt_cleared h, Slot.zero_word]

theorem cleared_slot_invalid (i : Fin 32) : (Vector.replicate 32 Slot.zero)[i].valid = false := by
  rw [Fin.getElem_fin, Vector.getElem_replicate]
  rfl

/-- With no valid slot and at least one that exists, the page gets slot 0, as a new stream's (R172). -/
theorem continuity_of_no_valid_slot {s : State} (hen : s.ctrl.contEn = true) (hslots : 0 < s.cfg.streamSlots)
    (h : ∀ i : Fin 32, s.slots[i].valid = false) (p : Page) :
    continuity s p = (s.slots.set 0 (Slot.start p), ⟨false, false, true, false, true, 0, true⟩) := by
  have htracked : trackedSlot s.cfg.streamSlots s.slots p.serial = none :=
    trackedSlot_of_untracked fun i _ hvalid => absurd hvalid (Bool.eq_false_iff.1 (h i))
  have hfree : freeSlot s.cfg.streamSlots s.slots = some 0 :=
    freeSlot_of_lowest hslots (h 0) fun i hi => absurd hi (Fin.not_lt_zero i)
  rw [continuity_of_enabled hen]
  exact track_of_free htracked hfree

theorem Config.streamSlots_pos_of_legal {c : Config} (h : c.legal = true) : 0 < c.streamSlots := by
  simp only [Config.legal, Bool.and_eq_true, decide_eq_true_eq] at h
  exact h.1.1

/-- Settles O28: completion adds nothing to the cleared table, in which the next page finds slot 0 free. -/
theorem streamsClearRule : Obligations.StreamsClearRule := by
  refine ⟨(decodeInvertsEncode _ _).2 rfl, fun s => ⟨_, rfl, rfl, rfl, complete_ok (s.setSlots _), peek_stream_of_cleared rfl,
    fun p hen hlegal => ?_⟩⟩
  rw [continuity_of_no_valid_slot hen (Config.streamSlots_pos_of_legal hlegal) cleared_slot_invalid]

/-! SOFT_RESET (R203) -/

theorem hi32_zero : hi32 0 = 0 := by decide
theorem RejInfo.reset_toWord : RejInfo.reset.toWord = 0 := by decide
theorem PageRegs.reset_hdrWord : PageRegs.reset.hdrWord = 0 := by decide
theorem PageInfo.reset_toWord : PageInfo.reset.toWord = 0 := by decide

theorem PageRegs.reset_segWord (k : Nat) : PageRegs.reset.segWord k = 0 := by
  simp [PageRegs.segWord, field]

/-- After a reset every readable word but those of what the platform fixes and of CTRL and STATUS reads 0 (R260). -/
theorem peek_blockReset (s : State) {g : Target}
    (h : g ∉ [Target.reg .id, .reg .version, .reg .ctrl, .reg .status, .reg .srcLenLo, .reg .srcLenHi]) :
    peek (blockReset s) g = 0 := by
  cases g with
  | reg r => cases r with
    | id | version | ctrl | status | srcLenLo | srcLenHi => exact absurd (by decide) h
    | posHi | argAddrHi | wasteHi | pgOffHi | pgGranHi => exact hi32_zero
    | rejInfo => exact RejInfo.reset_toWord
    | pgHdr => exact PageRegs.reset_hdrWord
    | pgInfo => exact PageInfo.reset_toWord
    | _ => rfl
  | seg k => exact PageRegs.reset_segWord k
  | stream i k => exact peek_stream_of_cleared rfl i k
  | pkt i k => cases k with
    | zero => exact congrArg PktEntry.word0 (PageRegs.reset_pktEntry i)
    | succ => exact congrArg PktEntry.word1 (PageRegs.reset_pktEntry i)

/-- Completion shows in STATUS alone (R222). -/
theorem peek_complete (code : ResultCode) (s : State) {g : Target} (h : g ≠ .reg .status) :
    peek (complete code s) g = peek s g := by
  cases g with
  | reg r => cases r with
    | status => exact absurd rfl h
    | _ => rfl
  | pkt i k => cases k <;> rfl
  | _ => rfl

/-- Settles O25: the reset values, of which completion changes STATUS alone. -/
theorem softResetRule : Obligations.SoftResetRule := by
  have hstatus : (Status.reset.completed .ok).toWord false = 0x00000002 := by decide
  have hctrl : Ctrl.reset.toWord = 0x00000004 := by decide
  refine ⟨(decodeInvertsEncode _ _).2 rfl, fun s => ⟨_, rfl, rfl, rfl, complete_ok (blockReset s), hstatus, hctrl, rfl,
    fun g hg => ?_⟩⟩
  have hne : g ≠ .reg .status := by
    rintro rfl
    exact hg (by decide)
  rw [peek_complete .ok _ hne, peek_blockReset s hg]

/-! Illegal words (R113, R204) -/

/-- The illegal words are those that match no row of R113. -/
theorem exists_decode_error_iff_no_row {w : Word} :
    (∃ e, decode w = .error e) ↔ ∀ r ∈ opcodeMap, w &&& r.mask ≠ r.pattern := by
  constructor
  · rintro ⟨e, he⟩ r hr hsel
    have hok := decode_eq_ok_iff.2 ⟨r, hr, hsel, rfl⟩
    rw [he] at hok
    cases hok
  · intro h
    cases hd : decode w with
    | ok i =>
      obtain ⟨r, hr, hsel, -⟩ := decode_eq_ok_iff.1 hd
      exact absurd hsel (h r hr)
    | error e => exact ⟨e, rfl⟩

/-- Settles O29: the decoder refuses what no row matches, and an illegal word's step is completion alone. -/
theorem illegalWordRule : Obligations.IllegalWordRule := by
  refine ⟨fun _ => exists_decode_error_iff_no_row, fun w hw => ?_,
    fun s _ _ hp hd => ⟨_, engineStep_of_illegal hp hd, rfl, rfl, complete_of_isError rfl s⟩⟩
  simp only [List.mem_cons, List.not_mem_nil, or_false] at hw
  rcases hw with rfl | rfl | rfl
  exacts [⟨.reservedOp, by decide⟩, ⟨.rsvdNotZero, by decide⟩, ⟨.immNotZero, by decide⟩]

end Sys2Proof.Machine
end

section
/-! SUPPORT. Acceptance, overrun, and whose turn a step is (R224, R226, R227, R231). -/

namespace Sys2Proof.Machine

/-! A write to CMD and the other registers of an idle block (R224, R226) -/

theorem idleOnly_of_busy {s : State} (h : s.busy = true) (w : State → State) : idleOnly w s = overrun s := by
  rw [idleOnly, if_pos h]

/-- CMD stands at offset 0x010 (R32). -/
theorem hostWrite_cmd (s : State) (w : Word) :
    hostWrite .w32 (s.cfg.mmioBase + 0x010) w s = .next (writeTarget w s (.reg .cmd)) :=
  access_base_add (resolve_regOffset .cmd) _ s

/-- Settles O6: an idle block accepts the word, and a busy one flags an overrun. -/
theorem acceptanceStartsOneCommand : Obligations.AcceptanceStartsOneCommand := by
  refine fun s w => ⟨fun hidle => ⟨_, hostWrite_cmd s w, ?_⟩, fun hbusy => ⟨_, hostWrite_cmd s w, ?_⟩⟩
  · rw [writeTarget_cmd_of_idle hidle]
    exact ⟨rfl, rfl⟩
  · rw [writeTarget, idleOnly_of_busy hbusy, overrun_pending]

/-- A busy block flags a write to each register that only an idle one takes (R224). -/
theorem writeTarget_of_busy {s : State} (h : s.busy = true) (v : Word) {r : Reg}
    (hr : r ∈ [Reg.cmd, .ctrl, .crc, .posLo, .posHi, .argAddrLo, .argAddrHi, .argLen]) :
    writeTarget v s (.reg r) = overrun s := by
  cases r with
  | cmd | ctrl | crc | posLo | posHi | argAddrLo | argAddrHi | argLen => rw [writeTarget, idleOnly_of_busy h]
  | _ => exact absurd hr (by decide)

/-- Settles O19: the eight registers' writes overrun; of the others, STATUS's clears bits and the rest are ignored. -/
theorem busyWritesOverrun : Obligations.BusyWritesOverrun := by
  refine fun s v hbusy => ⟨fun r hr => writeTarget_of_busy hbusy v hr, fun g hg => ?_⟩
  by_cases hstatus : g = .reg .status
  · subst hstatus
    exact ⟨fun h => by rw [writeTarget, acknowledge_status, Status.w1c_overrun, h, Bool.false_and], rfl⟩
  · have hwritable : ∀ r ∈ [Reg.ctrl, .status, .cmd, .crc, .posLo, .posHi, .argAddrLo, .argAddrHi, .argLen],
        r = .status ∨ r ∈ [Reg.cmd, .ctrl, .crc, .posLo, .posHi, .argAddrLo, .argAddrHi, .argLen] := by decide
    have hignored : writeTarget v s g = s := by
      refine readOnlyTargetsIgnoreWrites s v g fun r hgr hr => ?_
      rcases hwritable r hr with rfl | hr
      · exact hstatus hgr
      · exact hg r hr hgr
    rw [hignored]
    exact ⟨id, rfl⟩

/-! Whose turn a step is (R227, R231) -/

section
variable {s : State}

theorem step_of_no_turn (h : s.host.agenda = []) : step s = engineStep s := by
  rw [step, h]

theorem step_of_turn {turn : Turn} {rest : List Turn} (h : s.host.agenda = turn :: rest) :
    step s = takeTurn turn (s.withAgenda rest) := by
  rw [step, h]

theorem engineStep_of_command {w : Word} {i : Instr} (hp : s.pending = some w) (hd : decode w = .ok i) :
    engineStep s = exec i s := by
  rw [engineStep, hp]
  dsimp only
  rw [hd]

theorem engineStep_of_idle (h : s.busy = false) : engineStep s = .next s := by
  have hp : s.pending = none := Option.not_isSome_iff_eq_none.1 (Bool.eq_false_iff.1 h)
  rw [engineStep, hp]

end

/-- Settles O4: the step is the turn's, and the engine's turn is the decoded command. -/
theorem stepRunsTheDecodedCommand : Obligations.StepRunsTheDecodedCommand := by
  refine ⟨fun s w i hp hd => ⟨fun hagenda => ?_, fun rest hagenda => ?_⟩, fun s nbits w i hd => ?_,
    fun s rest => ⟨fun _ _ => step_of_turn, fun _ _ _ => step_of_turn, step_of_turn⟩⟩
  · rw [step_of_no_turn hagenda, engineStep_of_command hp hd]
  · exact (step_of_turn hagenda).trans (engineStep_of_command (s := s.withAgenda rest) hp hd)
  · calc step (s.withFetchWord nbits w)
      _ = engineStep (accept (tableWord nbits w) s) := step_of_turn (s := s.withFetchWord nbits w) rfl
      _ = exec i (accept (tableWord nbits w) s) := engineStep_of_command rfl hd

/-- Settles O5: an idle engine's step leaves the state as it is. -/
theorem idleEngineStandsStill : Obligations.IdleEngineStandsStill := by
  refine fun s hidle => ⟨fun hagenda => ?_, fun rest hagenda => ?_⟩
  · rw [step_of_no_turn hagenda, engineStep_of_idle hidle]
  · exact (step_of_turn hagenda).trans (engineStep_of_idle (s := s.withAgenda rest) hidle)

end Sys2Proof.Machine
end

section
/-! SUPPORT. Completion, the result codes by command, and what a command changes of the page state and of the interrupt
(R220 to R223, R228, R229, R232). -/

namespace Sys2Proof.Machine

/-! Completion (R222, R223) -/

theorem ResultCode.isError_eq_decide_mem (code : ResultCode) : code.isError =
    decide (code ∈ [ResultCode.truncated, .corrupt, .rejCapture, .rejVersion, .rejNseg, .rejCrc, .illegal]) := by
  cases code <;> rfl

/-- Every result but OK and EOI sets ERR (R221). -/
theorem ResultCode.isError_eq_not (code : ResultCode) : code.isError = !(code = .ok || code = .eoi) := by
  cases code <;> rfl

/-- Settles O7: ERR is set by the seven codes that are errors. -/
theorem completionWritesResultErrAndDone : Obligations.CompletionWritesResultErrAndDone := by
  refine fun code s => ⟨_, rfl, rfl, rfl, rfl, ?_⟩
  rw [← code.isError_eq_decide_mem]
  rfl

/-- Settles O8: every command executes, and the frame of every execution holds an idle block with DONE set. -/
theorem everyCommandCompletes : Obligations.EveryCommandCompletes := by
  intro i s
  obtain ⟨t, hexec, he⟩ := exec_executed i s
  obtain ⟨hcfg, -, hhost, hpending, hdone, hframe⟩ := he.frame
  refine ⟨t, hexec, congrArg Option.isSome hpending, hdone, hhost, hcfg, fun hi => ?_⟩
  obtain ⟨-, -, -, hoverrun, -⟩ := hframe hi
  exact hoverrun

/-! Which command ends with which result (R221) -/

theorem Rejection.result_mem (r : Rejection) : r.result ∈ [ResultCode.rejCapture, .rejVersion, .rejNseg, .rejCrc] := by
  cases r <;> decide

theorem LoopEnd.result_mem {u t : State} {d : Nat} (h : LoopEnd u d t) :
    t.status.result ∈ [ResultCode.ok, .eoi, .truncated, .corrupt] := by
  cases h with
  | accepted | ended | truncated | exhausted | corrupt => simp [finishPage, giveUp]

theorem Executed.result_of_crcRun {s t : State} (h : Executed s .crcRun t) :
    t.status.result ∈ [ResultCode.ok, .truncated] := by
  cases h with
  | crcRun | crcRunShort => simp

theorem Executed.result_of_pageCheck {s t : State} (h : Executed s .pageCheck t) :
    t.status.result ∈ [ResultCode.ok, .eoi, .truncated, .rejCapture, .rejVersion, .rejNseg, .rejCrc] := by
  cases h with
  | @checkRejected _ r => exact List.mem_append_right [ResultCode.ok, .eoi, .truncated] r.result_mem
  | checkDead | checkOk | checkEoi | checkTruncated => simp [finishPage]

theorem Executed.result_of_pageNext {s t : State} (h : Executed s .pageNext t) :
    t.status.result ∈ [ResultCode.ok, .eoi, .truncated, .corrupt] := by
  cases h with
  | nextDead => simp
  | next _ _ he => exact he.result_mem

/-- Settles O9: completion decides ERR by the result, and each way a command executes names its result. -/
theorem resultsByCommand : Obligations.ResultsByCommand := by
  refine ⟨⟨rfl, rfl, rfl, rfl, rfl, rfl, rfl, rfl, rfl⟩, fun i s t hexec => ⟨fun hi => ?_, ?_⟩⟩
  · obtain ⟨-, -, -, -, -, hframe⟩ := (exec_next hexec).frame
    obtain ⟨-, -, -, -, herr⟩ := hframe hi
    rw [herr, ResultCode.isError_eq_not]
  · have h := exec_next hexec
    cases i with
    | crcRun => exact h.result_of_crcRun
    | pageCheck => exact h.result_of_pageCheck
    | pageNext => exact h.result_of_pageNext
    | nop | crcClear | crcByte | wasteClear | streamsClear | softReset => cases h; rfl

/-! Page registers and tables (R53, R56, R232) -/

/-- A command leaves page registers and stream table as they were, or ends with OK and is one of the four that may change
them; STREAMS_CLEAR keeps the page registers. -/
theorem Executed.pageState_cases {i : Instr} {s t : State} (h : Executed s i t) :
    (t.pg = s.pg ∧ t.slots = s.slots) ∨
    (t.status.result = .ok ∧
      (i = .pageCheck ∨ i = .pageNext ∨ i = .softReset ∨ (i = .streamsClear ∧ t.pg = s.pg))) := by
  have hpage (hi : i = .pageCheck ∨ i = .pageNext) : (t.pg = s.pg ∧ t.slots = s.slots) ∨ t.status.result = .ok := by
    rcases h.accepted_or_samePage hi with ⟨_, _, v, p, -, -, rfl⟩ | ⟨-, hsame⟩
    · exact .inr rfl
    · exact .inl hsame
  cases i with
  | pageCheck => exact (hpage (.inl rfl)).imp_right fun hok => ⟨hok, .inl rfl⟩
  | pageNext => exact (hpage (.inr rfl)).imp_right fun hok => ⟨hok, .inr (.inl rfl)⟩
  | softReset => cases h; exact .inr ⟨rfl, .inr (.inr (.inl rfl))⟩
  | streamsClear => cases h; exact .inr ⟨rfl, .inr (.inr (.inr ⟨rfl, rfl⟩))⟩
  | nop | crcClear | crcByte | crcRun | wasteClear => cases h <;> exact .inl ⟨rfl, rfl⟩

/-- Settles O51: a command that changes either is one of the four, ended with OK. -/
theorem pageStateChangesOnlyOnOk : Obligations.PageStateChangesOnlyOnOk := by
  intro i s t hexec
  rcases (exec_next hexec).pageState_cases with ⟨hpg, hslots⟩ | ⟨hok, hi⟩
  · exact ⟨fun h => absurd hpg h, fun h => absurd hslots h⟩
  · rcases hi with rfl | rfl | rfl | ⟨rfl, hpg⟩
    · exact ⟨fun _ => ⟨hok, .inl rfl⟩, fun _ => ⟨hok, .inl rfl⟩⟩
    · exact ⟨fun _ => ⟨hok, .inr (.inl rfl)⟩, fun _ => ⟨hok, .inr (.inl rfl)⟩⟩
    · exact ⟨fun _ => ⟨hok, .inr (.inr rfl)⟩, fun _ => ⟨hok, .inr (.inr (.inr rfl))⟩⟩
    · exact ⟨fun h => absurd hpg h, fun _ => ⟨hok, .inr (.inr (.inl rfl))⟩⟩

/-! The interrupt line (R228, R229) -/

/-- The line, as STATUS and CTRL show its causes and their enables. -/
theorem irq_eq_peek (s : State) : s.irq =
    (((peek s (.reg .status)).getLsbD 1 && (peek s (.reg .ctrl)).getLsbD 0) ||
     ((peek s (.reg .status)).getLsbD 2 && (peek s (.reg .ctrl)).getLsbD 1)) := by
  obtain ⟨_, rfl, -, hdone, herr, -⟩ := statusWordLayout s
  obtain ⟨-, ⟨_, rfl, hdoneEn, herrEn, -⟩, -⟩ := hostReadableWordLayouts s
  rw [hdone, herr, hdoneEn, herrEn, State.irq]

/-- A completion with IRQ_DONE_EN set raises the line. -/
theorem Executed.irq_of_irqDoneEn {i : Instr} {s t : State} (h : Executed s i t) (hi : i ≠ .softReset)
    (hen : s.ctrl.irqDoneEn = true) : t.irq = true := by
  obtain ⟨-, -, -, -, hdone, hframe⟩ := h.frame
  obtain ⟨hctrl, -⟩ := hframe hi
  rw [State.irq, hdone, hctrl, hen, Bool.and_true, Bool.true_or]

/-- An acknowledgement clears the half of each cause it writes as 1 (R229). -/
theorem acknowledge_irq (v : Word) (s : State) : (acknowledge v s).irq =
    ((s.status.done && !v.getLsbD 1 && s.ctrl.irqDoneEn) || (s.status.err && !v.getLsbD 2 && s.ctrl.irqErrEn)) := rfl

/-- Acceptance clears DONE and with it DONE's half of the line (R226). -/
theorem accept_irq (w : Word) (s : State) : (accept w s).irq = (s.status.err && s.ctrl.irqErrEn) := by
  rw [State.irq, accept_status, Status.accepted_done, Status.accepted_err, accept_ctrl, Bool.false_and, Bool.false_or]

/-- Settles O22: the line is read off DONE, ERR and CTRL, so each write leaves of it what it leaves of them. -/
theorem interruptFollowsItsCauses : Obligations.InterruptFollowsItsCauses := by
  refine ⟨irq_eq_peek, fun _ _ _ hexec => (exec_next hexec).irq_of_irqDoneEn,
    fun s => ⟨?ackDone, ?ackErr, rfl, ?softReset⟩, fun s v hidle => ⟨?cmd, ?ctrl⟩⟩
  case ackDone => simp [writeTarget, acknowledge_irq]
  case ackErr => simp [writeTarget, acknowledge_irq]
  case softReset =>
    intro t hexec
    cases exec_next hexec
    rfl
  case cmd => rw [writeTarget_cmd_of_idle hidle, accept_irq]
  case ctrl =>
    rw [writeTarget, idleOnly_of_idle hidle]
    rfl

end Sys2Proof.Machine
end

section
/-! SUPPORT. What a read returns while busy, and the reset input (R260, R265). -/

namespace Sys2Proof.Machine

/-! Reads while busy (R265) -/

theorem Target.definedBusy_iff_mem {g : Target} : g.definedBusy = true ↔
    g ∈ [Target.reg .id, .reg .version, .reg .ctrl, .reg .status, .reg .srcLenLo, .reg .srcLenHi] := by
  cases g with
  | reg r => cases r <;> decide
  | seg | stream | pkt => exact iff_of_false Bool.false_ne_true (by simp)

/-- Settles O17: R265's registers are read as while idle, and of every other target a draw is recorded and counted (the
counter is log entry 2; CMD among the draws is log entry 7). -/
theorem readsWhileBusyAreDraws : Obligations.ReadsWhileBusyAreDraws := by
  intro s g hbusy
  rcases readTarget_cases g s with ⟨he, -, hdraw⟩ | ⟨he, hvalue⟩
  · rw [if_neg fun hmem => by simp [Target.definedBusy_iff_mem.2 hmem] at hdraw, he]
    rfl
  · have hdefined : g.definedBusy = true := hvalue.resolve_left (by simp [hbusy])
    rw [if_pos (Target.definedBusy_iff_mem.1 hdefined), he]
    rfl

/-! The reset input (R260) -/

/-- The reset input and SOFT_RESET's reset values show the same everywhere but in STATUS, whose BUSY the former clears. -/
theorem peek_resetInput (s : State) {g : Target} (h : g ≠ .reg .status) :
    peek (resetInput s) g = peek (blockReset s) g := by
  cases g with
  | reg r => cases r with
    | status => exact absurd rfl h
    | _ => rfl
  | pkt i k => cases k <;> rfl
  | _ => rfl

theorem peek_resetInput_status (s : State) : peek (resetInput s) (.reg .status) = 0 :=
  show Status.reset.toWord false = 0 by decide

/-- What the platform fixes reads as before a reset (R260). -/
theorem peek_resetInput_of_platform (s : State) {g : Target}
    (h : g ∈ [Target.reg .id, .reg .version, .reg .srcLenLo, .reg .srcLenHi]) :
    peek (resetInput s) g = peek s g := by
  simp only [List.mem_cons, List.not_mem_nil, or_false] at h
  rcases h with rfl | rfl | rfl | rfl <;> rfl

/-- Settles O24: the reset input leaves the reset values, whether or not a command was in flight. -/
theorem resetInputResetsTheBlock : Obligations.ResetInputResetsTheBlock := by
  have hctrl : Ctrl.reset.toWord = 0x00000004 := by decide
  refine fun s => ⟨resetInput s, rfl, rfl, rfl, rfl, rfl, rfl, fun g hg => ?_, hctrl,
    fun g hg => peek_resetInput_of_platform s hg⟩
  by_cases hstatus : g = .reg .status
  · rw [hstatus, peek_resetInput_status]
  · rw [peek_resetInput s hstatus]
    exact peek_blockReset s (by simpa [hstatus] using hg)

end Sys2Proof.Machine
end
